-- ==== Sys2Proof/Word.lean ====
section
/-!
DEFINITION. The machine's words: bytes, 16-bit words, 12-bit addresses and register indices (R8, R9, R21).
All quantities are unsigned (R8).
-/

namespace Sys2Proof

/-- An 8-bit value: a general register, a memory byte, a timer, an immediate NN (R6). -/
abbrev Byte := BitVec 8

/-- A 16-bit value: I, PC, a saved PC, an instruction word (R6). -/
abbrev Word := BitVec 16

/-- A 12-bit address NNN (R82). -/
abbrev Addr := BitVec 12

/-- A register or key index, 0 to 15 (R21, R160). -/
abbrev Reg := Fin 16

end Sys2Proof
end

