-- ==== Sys2Proof/Machine/Flags.lean ====
section
/-!
DEFINITION. Every flag computation (R23): what VF receives, always the number 0 or 1. Operands are the values kept
from before any write (R24).
-/

namespace Sys2Proof.Machine

/-- A truth value as the byte 1 or 0. -/
def flagByte (c : Bool) : Byte := if c then 1 else 0

/-- 8XY4: 1 if the exact sum exceeds 255 (R126). -/
def carryFlag (a b : Byte) : Byte := flagByte (decide (255 < a.toNat + b.toNat))

/-- 8XY5 for a - b, and 8XY7 with the operands exchanged: 0 if a borrow occurs, else 1 (R127, R129). -/
def noBorrowFlag (a b : Byte) : Byte := flagByte (decide (b.toNat ≤ a.toNat))

/-- 8XY6: the bit shifted out to the right (R128). -/
def lowBitFlag (b : Byte) : Byte := flagByte (b.getLsbD 0)

/-- 8XYE: the bit shifted out to the left, as 0 or 1 (R130). -/
def highBitFlag (b : Byte) : Byte := flagByte (b.getLsbD 7)

/-- DXYN: 1 if any collision, else 0 (R151, R154). -/
def collisionFlag (c : Bool) : Byte := flagByte c

end Sys2Proof.Machine
end

