-- ==== Sys2Proof/Decode.lean ====
section
/-!
DEFINITION. Field extraction (R81), the decoder (R85, R87 to R91), total on any bytes and rejecting by name, the
opcode map as the table writes it (R86), and the encoder (R80, R86).
-/

namespace Sys2Proof

/-- The family, w[15:12] (R81). -/
def family (w : Word) : BitVec 4 := w.extractLsb' 12 4

/-- X, w[11:8], a register index (R81). -/
def fieldX (w : Word) : Reg := (w.extractLsb' 8 4).toFin

/-- Y, w[7:4], a register index (R81). -/
def fieldY (w : Word) : Reg := (w.extractLsb' 4 4).toFin

/-- N, w[3:0] (R81). -/
def fieldN (w : Word) : BitVec 4 := w.extractLsb' 0 4

/-- NN, w[7:0] (R81). -/
def fieldNN (w : Word) : Byte := w.extractLsb' 0 8

/-- NNN, w[11:0] (R81). -/
def fieldNNN (w : Word) : Addr := w.extractLsb' 0 12

/-- Why a word or a byte string is no instruction: the five rows of R90's table of illegal words, or fewer than the
two bytes every instruction has (R80). -/
inductive DecodeError where
  /-- 0x5XYn with n from 1 to 0xF (R89). -/
  | unmatchedFamily5 (w : Word)
  /-- 0x8XYn with n in 8, 9, 0xA to 0xD, 0xF (R88). -/
  | unmatchedFamily8 (w : Word)
  /-- 0x9XYn with n from 1 to 0xF (R89). -/
  | unmatchedFamily9 (w : Word)
  /-- 0xEXkk with kk neither 0x9E nor 0xA1 (R88). -/
  | unmatchedFamilyE (w : Word)
  /-- 0xFXkk with kk none of the nine selectors (R88). -/
  | unmatchedFamilyF (w : Word)
  /-- Fewer than two bytes. -/
  | tooShort
deriving DecidableEq, Repr

/-- Family 0 (R87): the two exact words win, every other word is SYS. -/
def decode0 (w : Word) : Instr :=
  if w = 0x00E0#16 then .cls else if w = 0x00EE#16 then .ret else .sys (fieldNNN w)

/-- Family 8, selected by the low nibble (R88). -/
def decode8 (w : Word) : Except DecodeError Instr :=
  match fieldN w with
  | 0x0#4 => .ok (.ldReg (fieldX w) (fieldY w))
  | 0x1#4 => .ok (.or (fieldX w) (fieldY w))
  | 0x2#4 => .ok (.and (fieldX w) (fieldY w))
  | 0x3#4 => .ok (.xor (fieldX w) (fieldY w))
  | 0x4#4 => .ok (.addReg (fieldX w) (fieldY w))
  | 0x5#4 => .ok (.sub (fieldX w) (fieldY w))
  | 0x6#4 => .ok (.shr (fieldX w) (fieldY w))
  | 0x7#4 => .ok (.subn (fieldX w) (fieldY w))
  | 0xE#4 => .ok (.shl (fieldX w) (fieldY w))
  | _ => .error (.unmatchedFamily8 w)

/-- Family E, selected by the low byte (R88). -/
def decodeE (w : Word) : Except DecodeError Instr :=
  match fieldNN w with
  | 0x9E#8 => .ok (.skp (fieldX w))
  | 0xA1#8 => .ok (.sknp (fieldX w))
  | _ => .error (.unmatchedFamilyE w)

/-- Family F, selected by the low byte (R88). -/
def decodeF (w : Word) : Except DecodeError Instr :=
  match fieldNN w with
  | 0x07#8 => .ok (.ldVxDt (fieldX w))
  | 0x0A#8 => .ok (.ldVxK (fieldX w))
  | 0x15#8 => .ok (.ldDtVx (fieldX w))
  | 0x18#8 => .ok (.ldStVx (fieldX w))
  | 0x1E#8 => .ok (.addI (fieldX w))
  | 0x29#8 => .ok (.ldF (fieldX w))
  | 0x33#8 => .ok (.ldB (fieldX w))
  | 0x55#8 => .ok (.stRegs (fieldX w))
  | 0x65#8 => .ok (.ldRegs (fieldX w))
  | _ => .error (.unmatchedFamilyF w)

/-- `decode(w)` of R85: every inner case ends in a rejection of its own name (R91). -/
def decodeWord (w : Word) : Except DecodeError Instr :=
  match family w with
  | 0x0#4 => .ok (decode0 w)
  | 0x1#4 => .ok (.jp (fieldNNN w))
  | 0x2#4 => .ok (.call (fieldNNN w))
  | 0x3#4 => .ok (.seImm (fieldX w) (fieldNN w))
  | 0x4#4 => .ok (.sneImm (fieldX w) (fieldNN w))
  | 0x5#4 => if fieldN w = 0 then .ok (.seReg (fieldX w) (fieldY w)) else .error (.unmatchedFamily5 w)
  | 0x6#4 => .ok (.ldImm (fieldX w) (fieldNN w))
  | 0x7#4 => .ok (.addImm (fieldX w) (fieldNN w))
  | 0x8#4 => decode8 w
  | 0x9#4 => if fieldN w = 0 then .ok (.sneReg (fieldX w) (fieldY w)) else .error (.unmatchedFamily9 w)
  | 0xA#4 => .ok (.ldI (fieldNNN w))
  | 0xB#4 => .ok (.jpV0 (fieldNNN w))
  | 0xC#4 => .ok (.rnd (fieldX w) (fieldNN w))
  | 0xD#4 => .ok (.drw (fieldX w) (fieldY w) (fieldN w))
  | 0xE#4 => decodeE w
  | _ => decodeF w

/-- `Fetch16`'s order (R53): the byte at the lower address is bits 15 to 8. -/
def joinBytes (hi lo : Byte) : Word := hi ++ lo

/-- The byte an instruction word has at its lower address. -/
def highByte (w : Word) : Byte := w.extractLsb' 8 8

/-- The byte an instruction word has at its higher address. -/
def lowByte (w : Word) : Byte := w.extractLsb' 0 8

/-- The two bytes of a word as memory holds them, lower address first (R53, R80). -/
def wordBytes (w : Word) : List Byte := [highByte w, lowByte w]

/-- The decoder on a byte string: the instruction and the bytes after it. -/
def decode : List Byte → Except DecodeError (Instr × List Byte)
  | hi :: lo :: rest =>
    match decodeWord (joinBytes hi lo) with
    | .ok i => .ok (i, rest)
    | .error e => .error e
  | _ => .error .tooShort

/-! ### The encoder, from the formats of R80 and the patterns of R86 -/

/-- A register index as a 4-bit field. -/
def regBits (r : Reg) : BitVec 4 := BitVec.ofFin (w := 4) r

/-- Format A: family and NNN. -/
def formatA (f : BitVec 4) (nnn : Addr) : Word := f ++ nnn

/-- Format XI: family, X and NN. -/
def formatXI (f : BitVec 4) (x : Reg) (nn : Byte) : Word := f ++ regBits x ++ nn

/-- Formats XY and XYN: family, X, Y and the low nibble (sub-selector or N). -/
def formatXYN (f : BitVec 4) (x y : Reg) (n : BitVec 4) : Word := f ++ regBits x ++ regBits y ++ n

/-- Format XS: family, X and the sub-selector byte. -/
def formatXS (f : BitVec 4) (x : Reg) (sel : Byte) : Word := f ++ regBits x ++ sel

/-- The word of a well-formed instruction (R80, R86). -/
def encode : Instr → Word
  | .cls => 0x00E0#16
  | .ret => 0x00EE#16
  | .jp nnn => formatA 0x1#4 nnn
  | .call nnn => formatA 0x2#4 nnn
  | .seImm x nn => formatXI 0x3#4 x nn
  | .sneImm x nn => formatXI 0x4#4 x nn
  | .seReg x y => formatXYN 0x5#4 x y 0x0#4
  | .ldImm x nn => formatXI 0x6#4 x nn
  | .addImm x nn => formatXI 0x7#4 x nn
  | .ldReg x y => formatXYN 0x8#4 x y 0x0#4
  | .or x y => formatXYN 0x8#4 x y 0x1#4
  | .and x y => formatXYN 0x8#4 x y 0x2#4
  | .xor x y => formatXYN 0x8#4 x y 0x3#4
  | .addReg x y => formatXYN 0x8#4 x y 0x4#4
  | .sub x y => formatXYN 0x8#4 x y 0x5#4
  | .shr x y => formatXYN 0x8#4 x y 0x6#4
  | .subn x y => formatXYN 0x8#4 x y 0x7#4
  | .shl x y => formatXYN 0x8#4 x y 0xE#4
  | .sneReg x y => formatXYN 0x9#4 x y 0x0#4
  | .ldI nnn => formatA 0xA#4 nnn
  | .jpV0 nnn => formatA 0xB#4 nnn
  | .rnd x nn => formatXI 0xC#4 x nn
  | .drw x y n => formatXYN 0xD#4 x y n
  | .skp x => formatXS 0xE#4 x 0x9E#8
  | .sknp x => formatXS 0xE#4 x 0xA1#8
  | .ldVxDt x => formatXS 0xF#4 x 0x07#8
  | .ldVxK x => formatXS 0xF#4 x 0x0A#8
  | .ldDtVx x => formatXS 0xF#4 x 0x15#8
  | .ldStVx x => formatXS 0xF#4 x 0x18#8
  | .addI x => formatXS 0xF#4 x 0x1E#8
  | .ldF x => formatXS 0xF#4 x 0x29#8
  | .ldB x => formatXS 0xF#4 x 0x33#8
  | .stRegs x => formatXS 0xF#4 x 0x55#8
  | .ldRegs x => formatXS 0xF#4 x 0x65#8
  | .sys nnn => formatA 0x0#4 nnn

/-! ### The opcode map as the table writes it -/

/-- A row of the opcode map (R86): a word selects it when `w &&& mask = value`. -/
structure OpcodeRow where
  mnemonic : String
  mask : Word
  value : Word
deriving DecidableEq, Repr

/-- The unique mnemonic of R94's second column. -/
def Instr.mnemonic : Instr → String
  | .cls => "CLS" | .ret => "RET" | .jp _ => "JP" | .call _ => "CALL"
  | .seImm _ _ => "SE_IMM" | .sneImm _ _ => "SNE_IMM" | .seReg _ _ => "SE_REG" | .ldImm _ _ => "LD_IMM"
  | .addImm _ _ => "ADD_IMM" | .ldReg _ _ => "LD_REG" | .or _ _ => "OR" | .and _ _ => "AND" | .xor _ _ => "XOR"
  | .addReg _ _ => "ADD_REG" | .sub _ _ => "SUB" | .shr _ _ => "SHR" | .subn _ _ => "SUBN" | .shl _ _ => "SHL"
  | .sneReg _ _ => "SNE_REG" | .ldI _ => "LD_I" | .jpV0 _ => "JP_V0" | .rnd _ _ => "RND" | .drw _ _ _ => "DRW"
  | .skp _ => "SKP" | .sknp _ => "SKNP" | .ldVxDt _ => "LD_VX_DT" | .ldVxK _ => "LD_VX_K"
  | .ldDtVx _ => "LD_DT_VX" | .ldStVx _ => "LD_ST_VX" | .addI _ => "ADD_I" | .ldF _ => "LD_F" | .ldB _ => "LD_B"
  | .stRegs _ => "ST_REGS" | .ldRegs _ => "LD_REGS" | .sys _ => "SYS"

/-- Rows 1 to 7 of R86. -/
def opcodeRows1 : List OpcodeRow :=
  [⟨"CLS", 0xFFFF#16, 0x00E0#16⟩, ⟨"RET", 0xFFFF#16, 0x00EE#16⟩, ⟨"JP", 0xF000#16, 0x1000#16⟩,
   ⟨"CALL", 0xF000#16, 0x2000#16⟩,
   ⟨"SE_IMM", 0xF000#16, 0x3000#16⟩, ⟨"SNE_IMM", 0xF000#16, 0x4000#16⟩, ⟨"SE_REG", 0xF00F#16, 0x5000#16⟩]

/-- Rows 8 to 18 of R86. -/
def opcodeRows2 : List OpcodeRow :=
  [⟨"LD_IMM", 0xF000#16, 0x6000#16⟩, ⟨"ADD_IMM", 0xF000#16, 0x7000#16⟩, ⟨"LD_REG", 0xF00F#16, 0x8000#16⟩,
   ⟨"OR", 0xF00F#16, 0x8001#16⟩,
   ⟨"AND", 0xF00F#16, 0x8002#16⟩, ⟨"XOR", 0xF00F#16, 0x8003#16⟩, ⟨"ADD_REG", 0xF00F#16, 0x8004#16⟩,
   ⟨"SUB", 0xF00F#16, 0x8005#16⟩,
   ⟨"SHR", 0xF00F#16, 0x8006#16⟩, ⟨"SUBN", 0xF00F#16, 0x8007#16⟩, ⟨"SHL", 0xF00F#16, 0x800E#16⟩]

/-- Rows 19 to 25 of R86. -/
def opcodeRows3 : List OpcodeRow :=
  [⟨"SNE_REG", 0xF00F#16, 0x9000#16⟩, ⟨"LD_I", 0xF000#16, 0xA000#16⟩, ⟨"JP_V0", 0xF000#16, 0xB000#16⟩,
   ⟨"RND", 0xF000#16, 0xC000#16⟩,
   ⟨"DRW", 0xF000#16, 0xD000#16⟩, ⟨"SKP", 0xF0FF#16, 0xE09E#16⟩, ⟨"SKNP", 0xF0FF#16, 0xE0A1#16⟩]

/-- Rows 26 to 35 of R86. -/
def opcodeRows4 : List OpcodeRow :=
  [⟨"LD_VX_DT", 0xF0FF#16, 0xF007#16⟩, ⟨"LD_VX_K", 0xF0FF#16, 0xF00A#16⟩, ⟨"LD_DT_VX", 0xF0FF#16, 0xF015#16⟩,
   ⟨"LD_ST_VX", 0xF0FF#16, 0xF018#16⟩, ⟨"ADD_I", 0xF0FF#16, 0xF01E#16⟩, ⟨"LD_F", 0xF0FF#16, 0xF029#16⟩,
   ⟨"LD_B", 0xF0FF#16, 0xF033#16⟩,
   ⟨"ST_REGS", 0xF0FF#16, 0xF055#16⟩, ⟨"LD_REGS", 0xF0FF#16, 0xF065#16⟩, ⟨"SYS", 0xF000#16, 0x0000#16⟩]

/-- The 35 rows in the source's table order, SYS last (R86, R87). -/
def opcodeMap : List OpcodeRow := opcodeRows1 ++ opcodeRows2 ++ opcodeRows3 ++ opcodeRows4

/-- The first row of the map that the word selects (R87: first match wins). -/
def firstRow (w : Word) : Option OpcodeRow := opcodeMap.find? fun r => w &&& r.mask == r.value

/-! ### The host's entry -/

/-- The 16-bit word that the table's numbering of bits (bit 0 the least significant bit of the one word) gives for
`w` cut to `nbits` bits, the bits above them 0. -/
def tableWord (nbits w : Nat) : Word := BitVec.ofNat 16 (w % 2 ^ nbits)

/-- The instruction the decoder reads from that word's bytes. -/
def decodeTableWord (nbits w : Nat) : Option Instr :=
  match decode (wordBytes (tableWord nbits w)) with
  | .ok (i, _) => some i
  | .error _ => none

end Sys2Proof
end

