-- ==== Sys2Proof/Config.lean ====
section
/-!
DEFINITION. The sizes the hardware fixes (R6), the instance's parameters (R7) and the one free value, the random
byte (R131).
-/

namespace Sys2Proof.Config

/-- MEM_SIZE, the number of byte cells (R6). -/
abbrev memSize : Nat := 4096

/-- PROGRAM_ORIGIN, the load address and PC's reset value (R6). -/
abbrev programOrigin : Word := 0x200#16

/-- The greatest address a fetch succeeds from (R54). -/
abbrev lastFetch : Nat := 0xFFE

/-- FREE VALUE (R131, D17): the byte the random source with this seed gives at this draw. It has no body, so no
proof can see what it is; a claim about CXNN holds whatever it is. DESIGN CHOICE, log entry 3; safe. -/
opaque randomByte : Nat → Nat → Byte

end Sys2Proof.Config

namespace Sys2Proof

/-- The parameters the source leaves to the implementation, fixed once per machine instance (R7). -/
structure Params where
  /-- STACK_DEPTH: the greatest number of saved PC values; `none` is `unbounded`. -/
  stackDepth : Option Nat
  /-- FONT_BASE: the address of the glyph of digit 0. -/
  fontBase : Nat
deriving DecidableEq, Repr

/-- R7: STACK_DEPTH is greater than 0 or unbounded, and FONT_BASE + 80 <= 0x200. -/
abbrev Params.wf (p : Params) : Prop := p.stackDepth ≠ some 0 ∧ p.fontBase + 80 ≤ 0x200

/-- The random source's internal state (R34): the seed it was given at power-up, and how many bytes have been drawn.
`draws` is the model's own index of the free value. -/
structure Rng where
  seed : Nat
  draws : Nat
deriving DecidableEq, Repr

end Sys2Proof
end

