-- ==== Sys2Proof/Machine/Parameters.lean ====
section
/-!
DEFINITION. The parameter values the reset state is written with: those R7 recommends. DESIGN CHOICE, log entry 4:
R7 leaves both OPEN, so a claim about every state holds for every value, and only a claim about the reset state
itself rests on these.
-/

namespace Sys2Proof

/-- STACK_DEPTH = 16 and FONT_BASE = 0x000, the recommended values of R7 (D4, D9). -/
def Params.recommended : Params := { stackDepth := some 16, fontBase := 0x000 }

end Sys2Proof
end

