-- ==== Sys2Proof/Machine/State.lean ====
section
/-!
DEFINITION. The whole state of the machine (R20), the reasons a step can stop, and the state after RESET (R38).
-/

namespace Sys2Proof.Machine

/-- MEM, sparse and in one canonical form: the cells that do not hold 0x00, at strictly rising addresses. An unlisted
address reads as 0x00, what RESET leaves in every cell (R38). -/
abbrev Memory := List Host.Cell

/-- DISP as the 64 by 32 grid of R32: 32 rows of 64 one-bit cells, bit x of row y the cell of column x, row y. -/
abbrev Display := Vector (BitVec 64) 32

/-- The state record (R20). -/
structure State where
  /-- V[0] to V[15]; V[15] is VF (R21, R22). -/
  v : Vector Byte 16
  /-- The address register I (R25). -/
  i : Word
  /-- The program counter PC (R26). -/
  pc : Word
  /-- STACK, the saved PC values, the newest first (R28). -/
  stack : List Word
  /-- The delay timer DT (R29). -/
  dt : Byte
  /-- The sound timer ST (R30). -/
  st : Byte
  /-- KEY: bit k is 1 when key k is down (R32, R184). -/
  keys : BitVec 16
  /-- DISP (R32). -/
  disp : Display
  /-- MEM (R33, R50). -/
  mem : Memory
  /-- RNG (R34). -/
  rng : Rng
  /-- STACK_DEPTH and FONT_BASE, constants of the instance (R7, R20). -/
  params : Params
deriving DecidableEq, Repr

/-- The faults, the complete list of R171, each with its record. A fault ends the STEP or the LOAD with this outcome;
the state it leaves is `State.afterFault` (R176). Stopping here is safe (U9, log entry 2). -/
inductive Fault where
  /-- Code 1. Raised by the host event LOAD only, for an image that passes the end of memory (R172). Safe. -/
  | loadError (base : Addr) (length : Nat)
  /-- Code 2. Raised by RET on an empty call stack (R173). Safe. -/
  | stackUnderflow (addr word : Word)
  /-- Code 3. Raised by STEP when the fetched word matches no row of the opcode map (R174). Safe. -/
  | decodeFailure (addr word : Word)
  /-- Code 4. Raised by CALL when the stack holds STACK_DEPTH entries (R175). Safe. -/
  | stackOverflow (addr word : Word)
  /-- Code 5. Raised by STEP when PC is above 0xFFE (R54). Safe. -/
  | fetchOutOfRange (addr : Word)
deriving DecidableEq, Repr

/-- Refusals. No instruction of this model is refused. -/
inductive Refusal where
  /-- For an arm of `exec` without a meaning; raised by none. Safe. -/
  | notModelled (mnemonic : String)
deriving DecidableEq, Repr

/-- The state right after RESET (R38). The random source's seed is unspecified there (DESIGN CHOICE 0, log entry 3),
and the parameters are OPEN (DESIGN CHOICE the recommended values, log entry 4). -/
def State.reset : State where
  v := Vector.replicate 16 0
  i := 0
  pc := Config.programOrigin
  stack := []
  dt := 0
  st := 0
  keys := 0
  disp := Vector.replicate 32 0
  mem := []
  rng := { seed := 0, draws := 0 }
  params := Params.recommended

end Sys2Proof.Machine
end

