-- ==== Sys2Proof/Machine/Ops.lean ====
section
/-!
DEFINITION. The named operations over memory, registers, PC, the call stack, the random source and faults. Every
meaning is written over these.
-/

namespace Sys2Proof.Machine

/-- What a step answers. -/
abbrev Result := Host.Outcome State Fault Refusal

/-! ### Memory -/

/-- `MemRead(a, 1)` (R10): the last byte written, 0x00 if none (R38, R61). -/
def Memory.read : Memory → Nat → Byte
  | [], _ => 0
  | (a', b') :: m, a => if a = a' then b' else Memory.read m a

/-- The memory without any cell at the address. -/
def Memory.erase (m : Memory) (a : Nat) : Memory := m.filter fun c => c.1 != a

/-- A cell put in at its place among rising addresses. -/
def Memory.insert (a : Nat) (b : Byte) : Memory → Memory
  | [] => [(a, b)]
  | (a', b') :: m => if a < a' then (a, b) :: (a', b') :: m else (a', b') :: Memory.insert a b m

/-- `MemWrite(a, 1, b)` (R10), keeping the canonical form: a cell holding 0x00 is not listed. -/
def Memory.write (m : Memory) (a : Nat) (b : Byte) : Memory :=
  if b = 0 then m.erase a else Memory.insert a b (m.erase a)

/-- The canonical form from an address on: rising addresses below 4096, no cell holding 0x00. -/
def Memory.wfFrom (lo : Nat) : Memory → Bool
  | [] => true
  | (a, b) :: m => decide (lo ≤ a) && decide (a < Config.memSize) && b != 0 && Memory.wfFrom (a + 1) m

/-- The memory is in its canonical form. -/
def Memory.wf (m : Memory) : Bool := Memory.wfFrom 0 m

/-- The bytes written at consecutive addresses from `a` on, without wrapping (LOAD, R201). -/
def Memory.load (m : Memory) (a : Nat) : List Byte → Memory
  | [] => m
  | b :: bs => Memory.load (m.write a b) (a + 1) bs

/-- The byte at an address. -/
def State.readByte (s : State) (a : Nat) : Byte := s.mem.read a

/-! ### General registers -/

/-- `V[r]` (R21). -/
def State.getV (s : State) (r : Reg) : Byte := s.v[r]

/-- `V[r] <- b` (R21): no register is hard-wired. -/
def State.setV (s : State) (r : Reg) (b : Byte) : State := { s with v := s.v.set r b }

/-- The index of VF (R22). -/
abbrev flagReg : Reg := 15

/-- R24's write order: the flag to VF first, then the result to the destination, which wins when it is VF. -/
def State.writeFlagThenResult (s : State) (x : Reg) (flag result : Byte) : State :=
  (s.setV flagReg flag).setV x result

/-! ### The program counter -/

/-- `pc0`, the address the current instruction was fetched from, inside a meaning: PC has already been advanced by 2
(R26, R84; log entry 9). -/
def State.pc0 (s : State) : Word := s.pc - 2

/-- The fetch advance and a taken skip: `pc <- (pc + 2) mod 65536` (R83, R110). -/
def State.advance (s : State) : State := { s with pc := s.pc + 2 }

/-- `pc <- target`. -/
def State.jump (s : State) (target : Word) : State := { s with pc := target }

/-- A conditional skip: PC moves past the next instruction if the condition holds. -/
def State.skipIf (s : State) (c : Bool) : State := if c then s.advance else s

/-! ### The call stack (R28) -/

/-- `depth = STACK_DEPTH` (R103); never with an unbounded stack. -/
def State.stackFull (s : State) : Bool := s.params.stackDepth == some s.stack.length

/-- `push(v)`. -/
def State.push (s : State) (w : Word) : State := { s with stack := w :: s.stack }

/-- The state with these saved PCs: what `pop()` leaves once the newest is taken off. -/
def State.setStack (s : State) (ws : List Word) : State := { s with stack := ws }

/-! ### The timers (R29, R30) -/

/-- `DT <- v`. -/
def State.setDt (s : State) (b : Byte) : State := { s with dt := b }

/-- `ST <- v`. -/
def State.setSt (s : State) (b : Byte) : State := { s with st := b }

/-! ### The random source (R34, R131) -/

/-- The byte `rnd8()` gives: the free value at the source's state (log entry 3). -/
def State.draw (s : State) : Byte := Config.randomByte s.rng.seed s.rng.draws

/-- The source after one draw. -/
def State.drawn (s : State) : State := { s with rng := { s.rng with draws := s.rng.draws + 1 } }

/-! ### Fetch (R53, R54, R83) -/

/-- A fetch at PC succeeds: both bytes are cells of memory (R54). -/
def State.canFetch (s : State) : Bool := decide (s.pc.toNat ≤ Config.lastFetch)

/-- The bytes at PC and PC + 1 (R83). -/
def State.fetchBytes (s : State) : List Byte := [s.readByte s.pc.toNat, s.readByte (s.pc.toNat + 1)]

/-- `Fetch16(pc0)` (R53). -/
def State.fetchWord (s : State) : Word := joinBytes (s.readByte s.pc.toNat) (s.readByte (s.pc.toNat + 1))

/-- The state with a word stored where the next fetch reads it. From a PC no fetch can succeed at, PC is put to the
program origin first (log entry 10). -/
def State.storeAtPc (s : State) (w : Word) : State :=
  let s' := if s.canFetch then s else s.jump Config.programOrigin
  { s' with mem := s'.mem.load s'.pc.toNat (wordBytes w) }

/-! ### Faults (R170 to R177)

A fault is this machine's only exception: it saves nothing and transfers control nowhere in the program; the outcome
goes to the host with its record, and the state is left as R176 says. There is no return from it (R177). -/

/-- `raise <Fault>(info)`: end the step with the fault outcome (R10). -/
def raiseFault (f : Fault) : Result := .fault f

/-- The code of R171 (D18). -/
def Fault.code : Fault → Nat
  | .loadError _ _ => 1
  | .stackUnderflow _ _ => 2
  | .decodeFailure _ _ => 3
  | .stackOverflow _ _ => 4
  | .fetchOutOfRange _ => 5

/-- The name of R171. -/
def Fault.name : Fault → String
  | .loadError _ _ => "LoadError"
  | .stackUnderflow _ _ => "StackUnderflow"
  | .decodeFailure _ _ => "DecodeFailure"
  | .stackOverflow _ _ => "StackOverflow"
  | .fetchOutOfRange _ => "FetchOutOfRange"

/-- The `addr` of the record (R170): pc0, or the base address of the LOAD. -/
def Fault.addr : Fault → Word
  | .loadError base _ => base.setWidth 16
  | .stackUnderflow a _ | .decodeFailure a _ | .stackOverflow a _ | .fetchOutOfRange a => a

/-- The `word` of the record (R170), absent when no word was fetched. -/
def Fault.word : Fault → Option Word
  | .loadError _ _ | .fetchOutOfRange _ => none
  | .stackUnderflow _ w | .decodeFailure _ w | .stackOverflow _ w => some w

/-- The state a fault leaves, from the state the event began in (R176, D19): PC is past the instruction after the
three faults that follow the fetch, and nothing else ever changes. -/
def State.afterFault (s : State) : Fault → State
  | .loadError _ _ | .fetchOutOfRange _ => s
  | .stackUnderflow _ _ | .decodeFailure _ _ | .stackOverflow _ _ => s.advance

end Sys2Proof.Machine
end

