-- ==== Sys2Proof/Machine/Operands.lean ====
section
/-!
DEFINITION. The operand forms (R82): immediates as 16-bit values, the low nibble of a register, the I-relative
effective address and the block of bytes at it, the implicit register range V[0] to V[X].
-/

namespace Sys2Proof.Machine

/-- An address NNN as a 16-bit value: zero-extension is the only extension (R82). -/
def zextAddr (nnn : Addr) : Word := nnn.setWidth 16

/-- A byte as a 16-bit value. -/
def zextByte (b : Byte) : Word := b.setWidth 16

/-- `v & 0x0F`: the key index (R160, D15) and the hex digit (R142) a register names. -/
def lowNibble (b : Byte) : Reg := (b.extractLsb' 0 4).toFin

/-- `ea(k) = (I + k) mod 4096`, the address of byte k of an I-relative access (R56, D8). -/
def ea (i : Word) (k : Nat) : Nat := (i.toNat + k) % Config.memSize

/-- The byte at ea(k). -/
def State.readI (s : State) (k : Nat) : Byte := s.readByte (ea s.i k)

/-- Bytes stored one after another at ea(k), ea(k+1), ... (R56, R57). -/
def Memory.storeI (m : Memory) (i : Word) (k : Nat) : List Byte → Memory
  | [] => m
  | b :: bs => Memory.storeI (m.write (ea i k) b) i (k + 1) bs

/-- The state after storing bytes from ea(0) on. -/
def State.storeI (s : State) (bytes : List Byte) : State := { s with mem := s.mem.storeI s.i 0 bytes }

/-- V[0] to V[X], the bytes FX55 stores (R144). -/
def State.regsUpTo (s : State) (x : Reg) : List Byte := s.v.toList.take (x.val + 1)

/-- V[0] to V[X] loaded from ea(0) to ea(X), the registers above kept (R145). -/
def State.loadRegsUpTo (s : State) (x : Reg) : State :=
  { s with v := Vector.ofFn fun r : Fin 16 => if r ≤ x then s.readI r.val else s.getV r }

/-- `I <- v`. -/
def State.setI (s : State) (w : Word) : State := { s with i := w }

/-- `I <- (I + X + 1) mod 65536`, the post-increment of FX55 and FX65 (R144, R145, D7). -/
def State.stepI (s : State) (x : Reg) : State := s.setI (s.i + BitVec.ofNat 16 (x.val + 1))

/-- FONT_BASE + 5 * d, the address of the glyph of a hex digit (R142). -/
def glyphAddr (p : Params) (d : Reg) : Word := BitVec.ofNat 16 (p.fontBase + 5 * d.val)

/-- The decimal digits of a byte: hundreds, tens, ones (R143). -/
def decimalDigits (b : Byte) : List Byte :=
  [BitVec.ofNat 8 (b.toNat / 100), BitVec.ofNat 8 (b.toNat / 10 % 10), BitVec.ofNat 8 (b.toNat % 10)]

/-- KEY[k] = 1 (R32). -/
def State.keyDown (s : State) (k : Reg) : Bool := s.keys.getLsbD k.val

/-- The least k with KEY[k] = 1, if any (R166, D16). -/
def State.firstKeyDown (s : State) : Option Reg := (List.finRange 16).find? s.keyDown

end Sys2Proof.Machine
end

