-- ==== Sys2Proof/Machine/Alu.lean ====
section
/-!
DEFINITION. Register load, arithmetic, bitwise, shift and random: 6XNN, 7XNN, 8XY0 to 8XYE, CXNN (42_alu.md). All
arithmetic is on unsigned bytes modulo 256 (R132).
-/

namespace Sys2Proof.Machine

/-- 6XNN, LD_IMM (R120). -/
def execLdImm (x : Reg) (nn : Byte) (s : State) : Result := .next (s.setV x nn)

/-- 7XNN, ADD_IMM: no flag (R121). -/
def execAddImm (x : Reg) (nn : Byte) (s : State) : Result := .next (s.setV x (s.getV x + nn))

/-- 8XY0, LD_REG (R122). -/
def execLdReg (x y : Reg) (s : State) : Result := .next (s.setV x (s.getV y))

/-- 8XY1, OR: VF is not written (R123, D27). -/
def execOr (x y : Reg) (s : State) : Result := .next (s.setV x (s.getV x ||| s.getV y))

/-- 8XY2, AND: VF is not written (R124, D27). -/
def execAnd (x y : Reg) (s : State) : Result := .next (s.setV x (s.getV x &&& s.getV y))

/-- 8XY3, XOR: VF is not written (R125, D27). -/
def execXor (x y : Reg) (s : State) : Result := .next (s.setV x (s.getV x ^^^ s.getV y))

/-- 8XY4, ADD_REG (R126). -/
def execAddReg (x y : Reg) (s : State) : Result :=
  .next (s.writeFlagThenResult x (carryFlag (s.getV x) (s.getV y)) (s.getV x + s.getV y))

/-- 8XY5, SUB (R127). -/
def execSub (x y : Reg) (s : State) : Result :=
  .next (s.writeFlagThenResult x (noBorrowFlag (s.getV x) (s.getV y)) (s.getV x - s.getV y))

/-- 8XY6, SHR: the value shifted is V[Y] (R128). -/
def execShr (x y : Reg) (s : State) : Result :=
  .next (s.writeFlagThenResult x (lowBitFlag (s.getV y)) (s.getV y >>> 1))

/-- 8XY7, SUBN (R129). -/
def execSubn (x y : Reg) (s : State) : Result :=
  .next (s.writeFlagThenResult x (noBorrowFlag (s.getV y) (s.getV x)) (s.getV y - s.getV x))

/-- 8XYE, SHL: the value shifted is V[Y] (R130). -/
def execShl (x y : Reg) (s : State) : Result :=
  .next (s.writeFlagThenResult x (highBitFlag (s.getV y)) (s.getV y <<< 1))

/-- CXNN, RND: one draw, consumed whatever NN is (R131). -/
def execRnd (x : Reg) (nn : Byte) (s : State) : Result := .next (s.drawn.setV x (s.draw &&& nn))

end Sys2Proof.Machine
end

