-- ==== Sys2Proof/Machine/Control.lean ====
section
/-!
DEFINITION. Control transfer: 0NNN, 00EE, 1NNN, 2NNN, BNNN (40_control_flow.md). In every meaning PC already holds
pc0 + 2.
-/

namespace Sys2Proof.Machine

/-- 0NNN, SYS: a no-op whose NNN has no effect (R100, R92). -/
def execSys (_nnn : Addr) (s : State) : Result := .next s

/-- 00EE, RET: pop the return address into PC, all 16 bits as they stand; StackUnderflow on an empty stack (R101). -/
def execRet (s : State) : Result :=
  match s.stack with
  | [] => raiseFault (.stackUnderflow s.pc0 (encode .ret))
  | w :: rest => .next ((s.setStack rest).jump w)

/-- 1NNN, JP (R102). -/
def execJp (nnn : Addr) (s : State) : Result := .next (s.jump (zextAddr nnn))

/-- 2NNN, CALL: push the advanced PC, then jump; StackOverflow on a full stack (R103). -/
def execCall (nnn : Addr) (s : State) : Result :=
  if s.stackFull then raiseFault (.stackOverflow s.pc0 (encode (.call nnn)))
  else .next ((s.push s.pc).jump (zextAddr nnn))

/-- BNNN, JP_V0: the 16-bit sum, not reduced modulo 4096 (R104). -/
def execJpV0 (nnn : Addr) (s : State) : Result := .next (s.jump (zextAddr nnn + zextByte (s.getV 0)))

end Sys2Proof.Machine
end

