-- ==== Sys2Proof/Machine/Display.lean ====
section
/-!
DEFINITION. The display frame buffer: its cells (R32), the sprite drawing loop of R151, and 00E0 and DXYN
(44_display.md).
-/

namespace Sys2Proof.Machine

/-- The cell of column x, row y: DISP[64*y + x] (R32). -/
def Display.cell (d : Display) (x : Fin 64) (y : Fin 32) : Bool := d[y].getLsbD x.val

/-- A cell XORed with 1 (R151). -/
def Display.flip (d : Display) (x : Fin 64) (y : Fin 32) : Display := d.set y (d[y] ^^^ BitVec.twoPow 64 x.val)

/-- The display with every cell 0 (R150). -/
def Display.clear : Display := Vector.replicate 32 0

/-- DISP[i] of the flat order (R32, D13): column i mod 64 of row i div 64. -/
def Display.flat (d : Display) (i : Fin 2048) : Bool :=
  d.cell (Fin.ofNat 64 (i.val % 64)) (Fin.ofNat 32 (i.val / 64))

/-- One pixel of R151's inner loop: row r, column offset c of a sprite whose top-left pixel is at (vx, vy). Bit 7 - c
of the row's byte is the pixel (R153, D12), and every pixel wraps (R152, D11). `acc` is the display and the
collision seen so far. -/
def drawPixel (byte : Byte) (vx vy r : Nat) (acc : Display × Bool) (c : Nat) : Display × Bool :=
  if byte.getLsbD (7 - c) then
    (acc.1.flip (Fin.ofNat 64 (vx + c)) (Fin.ofNat 32 (vy + r)),
     acc.2 || acc.1.cell (Fin.ofNat 64 (vx + c)) (Fin.ofNat 32 (vy + r)))
  else acc

/-- One row: its eight pixels from the left. -/
def drawRow (byte : Byte) (vx vy : Nat) (acc : Display × Bool) (r : Nat) : Display × Bool :=
  (List.range 8).foldl (drawPixel byte vx vy r) acc

/-- The n rows of a sprite, the byte of row r being `rowByte r`; none for n = 0 (R151, R156). -/
def drawSprite (rowByte : Nat → Byte) (vx vy n : Nat) (d : Display) : Display × Bool :=
  (List.range n).foldl (fun acc r => drawRow (rowByte r) vx vy acc r) (d, false)

/-- The state with this display. -/
def State.setDisp (s : State) (d : Display) : State := { s with disp := d }

/-- 00E0, CLS (R150). -/
def execCls (s : State) : Result := .next (s.setDisp Display.clear)

/-- DXYN, DRW: the sprite at ea(0) to ea(N-1) XORed in at (V[X], V[Y]), both read before VF is written; VF always
receives the collision (R151, R154). -/
def execDrw (x y : Reg) (n : BitVec 4) (s : State) : Result :=
  let drawing := drawSprite s.readI (s.getV x).toNat (s.getV y).toNat n.toNat s.disp
  .next ((s.setDisp drawing.1).setV flagReg (collisionFlag drawing.2))

end Sys2Proof.Machine
end

