-- ==== Sys2Proof/Machine/Index.lean ====
section
/-!
DEFINITION. The address register and memory transfer: ANNN, FX1E, FX29, FX33, FX55, FX65 (43_index_memory.md). No
effective address leaves memory, so none of them faults.
-/

namespace Sys2Proof.Machine

/-- ANNN, LD_I (R140). -/
def execLdI (nnn : Addr) (s : State) : Result := .next (s.setI (zextAddr nnn))

/-- FX1E, ADD_I: modulo 65536, VF not written (R141, D7). -/
def execAddI (x : Reg) (s : State) : Result := .next (s.setI (s.i + zextByte (s.getV x)))

/-- FX29, LD_F: the glyph address of V[X]'s low nibble (R142). -/
def execLdF (x : Reg) (s : State) : Result := .next (s.setI (glyphAddr s.params (lowNibble (s.getV x))))

/-- FX33, LD_B: three decimal digits at ea(0), ea(1), ea(2), I unchanged (R143). -/
def execLdB (x : Reg) (s : State) : Result := .next (s.storeI (decimalDigits (s.getV x)))

/-- FX55, ST_REGS: V[0] to V[X] to ea(0) to ea(X), then I moves past the block (R144). -/
def execStRegs (x : Reg) (s : State) : Result := .next ((s.storeI (s.regsUpTo x)).stepI x)

/-- FX65, LD_REGS: V[0] to V[X] from ea(0) to ea(X), then I moves past the block (R145). -/
def execLdRegs (x : Reg) (s : State) : Result := .next ((s.loadRegsUpTo x).stepI x)

end Sys2Proof.Machine
end

