-- ==== Sys2Proof/Machine/Keypad.lean ====
section
/-!
DEFINITION. The keypad and the timers: EX9E, EXA1, FX07, FX0A, FX15, FX18 (45_keypad_timers.md).
-/

namespace Sys2Proof.Machine

/-- EX9E, SKP: skip if the key V[X] & 0x0F is down (R161). -/
def execSkp (x : Reg) (s : State) : Result := .next (s.skipIf (s.keyDown (lowNibble (s.getV x))))

/-- EXA1, SKNP: skip if that key is up (R162). -/
def execSknp (x : Reg) (s : State) : Result := .next (s.skipIf (!s.keyDown (lowNibble (s.getV x))))

/-- FX07, LD_VX_DT (R163). -/
def execLdVxDt (x : Reg) (s : State) : Result := .next (s.setV x s.dt)

/-- FX0A, LD_VX_K: with no key down PC is put back to pc0 and nothing else changes, a normal end; otherwise V[X]
receives the least index of a key that is down (R166, D16). -/
def execLdVxK (x : Reg) (s : State) : Result :=
  match s.firstKeyDown with
  | none => .next (s.jump s.pc0)
  | some k => .next (s.setV x (BitVec.ofNat 8 k.val))

/-- FX15, LD_DT_VX (R164). -/
def execLdDtVx (x : Reg) (s : State) : Result := .next (s.setDt (s.getV x))

/-- FX18, LD_ST_VX (R165). -/
def execLdStVx (x : Reg) (s : State) : Result := .next (s.setSt (s.getV x))

end Sys2Proof.Machine
end

