-- ==== Sys2Proof/Machine/Skip.lean ====
section
/-!
DEFINITION. The skips that compare registers: 3XNN, 4XNN, 5XY0, 9XY0 (41_skip.md).
-/

namespace Sys2Proof.Machine

/-- 3XNN, SE_IMM (R110). -/
def execSeImm (x : Reg) (nn : Byte) (s : State) : Result := .next (s.skipIf (s.getV x == nn))

/-- 4XNN, SNE_IMM (R111). -/
def execSneImm (x : Reg) (nn : Byte) (s : State) : Result := .next (s.skipIf (s.getV x != nn))

/-- 5XY0, SE_REG (R112). -/
def execSeReg (x y : Reg) (s : State) : Result := .next (s.skipIf (s.getV x == s.getV y))

/-- 9XY0, SNE_REG (R113). -/
def execSneReg (x y : Reg) (s : State) : Result := .next (s.skipIf (s.getV x != s.getV y))

end Sys2Proof.Machine
end

