-- ==== Sys2Proof/Machine/Step.lean ====
section
/-!
DEFINITION. STEP (R84), and the host's way to place the next instruction.
-/

namespace Sys2Proof.Machine

/-- The host event STEP (R84): the fetch check, the fetch, the advance of PC by 2, decode, execute. The first fault
that applies ends it (R179). -/
def step (s : State) : Host.Outcome State Fault Refusal :=
  if s.canFetch then
    match decode s.fetchBytes with
    | .ok (i, _) => exec i s.advance
    | .error _ => raiseFault (.decodeFailure s.pc s.fetchWord)
  else raiseFault (.fetchOutOfRange s.pc)

/-- `s` with the table's word stored where `step` fetches its next instruction. -/
def State.withFetchWord (s : State) (nbits w : Nat) : State := s.storeAtPc (tableWord nbits w)

end Sys2Proof.Machine
end

