-- ==== Sys2Proof/Machine/Events.lean ====
section
/-!
DEFINITION. The block's whole interface: the seven host events of R182, each atomic and total, with what it answers
to the host. STEP is `step`; the others act between steps. A run of the block is a list of events in any order (R188).
-/

namespace Sys2Proof.Machine

/-- The host events (R182). -/
inductive HostEvent where
  | reset
  | load (base : Addr) (bytes : List Byte)
  | step
  | tick
  | keyWrite (keys : BitVec 16)
  | displayRead
  | soundRead
deriving DecidableEq, Repr

/-- What an event answers: nothing (RESET, TICK, KEY_WRITE), an outcome (STEP, LOAD; R12), the 2048 cells in flat
order (DISPLAY_READ), or whether ST is not 0 (SOUND_READ). -/
inductive EventOutput where
  | nothing
  | ok
  | fault (f : Fault)
  | refused (r : Refusal)
  | display (cells : Vector Bool 2048)
  | sound (beeping : Bool)
deriving DecidableEq, Repr

/-- RESET (R200, R38) from any state: everything but RNG goes to its reset value, and the instance's parameters are
constants (R7). -/
def State.hostReset (s : State) : State := { State.reset with rng := s.rng, params := s.params }

/-- LOAD's bound: the image passes the end of memory (R201). -/
def loadTooLong (base : Addr) (bytes : List Byte) : Bool := decide (Config.memSize < base.toNat + bytes.length)

/-- A timer after TICK: one less, floored at 0 (R183). -/
def tickTimer (t : Byte) : Byte := if t = 0 then 0 else t - 1

/-- TICK (R183). -/
def State.tick (s : State) : State := { s with dt := tickTimer s.dt, st := tickTimer s.st }

/-- KEY_WRITE (R184): the whole vector at once. -/
def State.keyWrite (s : State) (keys : BitVec 16) : State := { s with keys := keys }

/-- DISPLAY_READ (R185): DISP[0] to DISP[2047]. -/
def State.displayRead (s : State) : Vector Bool 2048 := Vector.ofFn s.disp.flat

/-- SOUND_READ (R187): ST is not 0. -/
def State.soundRead (s : State) : Bool := s.st != 0

/-- STEP with the state it leaves in every case (R84, R176). -/
def stepEvent (s : State) : State × EventOutput :=
  match step s with
  | .next s' => (s', .ok)
  | .fault f => (s.afterFault f, .fault f)
  | .refused r => (s, .refused r)

/-- LOAD (R201): the whole image or nothing. -/
def loadEvent (base : Addr) (bytes : List Byte) (s : State) : State × EventOutput :=
  if loadTooLong base bytes then
    (s.afterFault (.loadError base bytes.length), .fault (.loadError base bytes.length))
  else ({ s with mem := s.mem.load base.toNat bytes }, .ok)

/-- One host event (R182): the state after it and its answer. -/
def event (e : HostEvent) (s : State) : State × EventOutput :=
  match e with
  | .reset => (s.hostReset, .nothing)
  | .load base bytes => loadEvent base bytes s
  | .step => stepEvent s
  | .tick => (s.tick, .nothing)
  | .keyWrite keys => (s.keyWrite keys, .nothing)
  | .displayRead => (s, .display s.displayRead)
  | .soundRead => (s, .sound s.soundRead)

/-- A run of host events: the state after them and the answers in order. -/
def runEvents : List HostEvent → State → State × List EventOutput
  | [], s => (s, [])
  | e :: es, s =>
    let now := event e s
    let later := runEvents es now.1
    (later.1, now.2 :: later.2)

end Sys2Proof.Machine
end

