-- ==== Sys2Proof/Safety.lean ====
section
/-!
DEFINITION. The terms claims are stated in: the invariant of reachable states, what a run that goes wrong is, and
which components two states agree on.
-/

namespace Sys2Proof.Machine

/-- What holds of every state a run reaches: memory in canonical form within its 4096 cells (R50), legal parameters
(R7), at most STACK_DEPTH saved PCs (R20, R28), each a value CALL can have pushed (R101: 0x0002 to 0x1000), and a PC
no greater than the greatest BNNN target 0x10FE (R26). -/
structure Inv (s : State) : Prop where
  mem_wf : s.mem.wf = true
  params_wf : s.params.wf
  stack_le : ∀ d, s.params.stackDepth = some d → s.stack.length ≤ d
  saved_range : ∀ w ∈ s.stack, 0x0002 ≤ w.toNat ∧ w.toNat ≤ 0x1000
  pc_le : s.pc.toNat ≤ 0x10FE

/-- A fault outcome counts as gone wrong (R177, U9). -/
def EventOutput.wentWrong : EventOutput → Bool
  | .fault _ | .refused _ => true
  | .nothing | .ok | .display _ | .sound _ => false

/-- A run of host events none of which went wrong. -/
def SafeRun (es : List HostEvent) (s : State) : Prop := ∀ o ∈ (runEvents es s).2, o.wentWrong = false

/-- The components of the state record (R20). -/
inductive Component where
  | v | i | pc | stack | dt | st | keys | disp | mem | rng | params
deriving DecidableEq, Repr

/-- Two states agree on a component: every register, every cell, every byte a read gives. -/
def Component.Agree : Component → State → State → Prop
  | .v, s, t => ∀ r, t.getV r = s.getV r
  | .i, s, t => t.i = s.i
  | .pc, s, t => t.pc = s.pc
  | .stack, s, t => t.stack = s.stack
  | .dt, s, t => t.dt = s.dt
  | .st, s, t => t.st = s.st
  | .keys, s, t => t.keys = s.keys
  | .disp, s, t => ∀ x y, t.disp.cell x y = s.disp.cell x y
  | .mem, s, t => ∀ a, t.readByte a = s.readByte a
  | .rng, s, t => t.rng = s.rng
  | .params, s, t => t.params = s.params

/-- `t` differs from `s` at most in the components listed. -/
def OnlyChanges (changed : List Component) (s t : State) : Prop := ∀ c, c ∉ changed → c.Agree s t

/-- `t` differs from `s` in no general register but those listed. -/
def OnlyWritesRegs (regs : List Reg) (s t : State) : Prop := ∀ r, r ∉ regs → t.getV r = s.getV r

/-- `t` differs from `s` in no byte of memory but those at the addresses listed. -/
def OnlyStoresTo (addrs : List Nat) (s t : State) : Prop := ∀ a, a ∉ addrs → t.readByte a = s.readByte a

/-- The components an instruction may write: the "written by" column of R20's table, and PC beyond the fetch advance
(R27). -/
def mayWrite : Instr → List Component
  | .cls => [.disp]
  | .ret | .call _ => [.pc, .stack]
  | .jp _ | .jpV0 _ => [.pc]
  | .seImm _ _ | .sneImm _ _ | .seReg _ _ | .sneReg _ _ | .skp _ | .sknp _ => [.pc]
  | .ldImm _ _ | .addImm _ _ | .ldReg _ _ | .or _ _ | .and _ _ | .xor _ _ => [.v]
  | .addReg _ _ | .sub _ _ | .shr _ _ | .subn _ _ | .shl _ _ | .ldVxDt _ => [.v]
  | .rnd _ _ => [.v, .rng]
  | .drw _ _ _ => [.v, .disp]
  | .ldVxK _ => [.v, .pc]
  | .ldDtVx _ => [.dt]
  | .ldStVx _ => [.st]
  | .ldI _ | .addI _ | .ldF _ => [.i]
  | .ldB _ => [.mem]
  | .stRegs _ => [.mem, .i]
  | .ldRegs _ => [.v, .i]
  | .sys _ => []

/-- The general registers an instruction may write: its destination, V[0] to V[X] for FX65, and VF for the implicit
writers of R23. -/
def destRegs : Instr → List Reg
  | .ldImm x _ | .addImm x _ | .ldReg x _ | .or x _ | .and x _ | .xor x _ | .rnd x _ => [x]
  | .addReg x _ | .sub x _ | .shr x _ | .subn x _ | .shl x _ => [x, flagReg]
  | .drw _ _ _ => [flagReg]
  | .ldVxDt x | .ldVxK x => [x]
  | .ldRegs x => (List.finRange 16).filter fun r => decide (r ≤ x)
  | .cls | .ret | .call _ | .jp _ | .jpV0 _ | .sys _ => []
  | .seImm _ _ | .sneImm _ _ | .seReg _ _ | .sneReg _ _ | .skp _ | .sknp _ => []
  | .ldDtVx _ | .ldStVx _ | .ldI _ | .addI _ | .ldF _ | .ldB _ | .stRegs _ => []

/-- The addresses an instruction stores to (R55): ea(0) to ea(2) for FX33, ea(0) to ea(X) for FX55, none otherwise. -/
def storedAddrs (s : State) : Instr → List Nat
  | .ldB _ => (List.range 3).map (ea s.i)
  | .stRegs x => (List.range (x.val + 1)).map (ea s.i)
  | .cls | .ret | .call _ | .jp _ | .jpV0 _ | .sys _ => []
  | .seImm _ _ | .sneImm _ _ | .seReg _ _ | .sneReg _ _ | .skp _ | .sknp _ => []
  | .ldImm _ _ | .addImm _ _ | .ldReg _ _ | .or _ _ | .and _ _ | .xor _ _ | .rnd _ _ => []
  | .addReg _ _ | .sub _ _ | .shr _ _ | .subn _ _ | .shl _ _ | .drw _ _ _ => []
  | .ldVxDt _ | .ldVxK _ | .ldDtVx _ | .ldStVx _ | .ldI _ | .addI _ | .ldF _ | .ldRegs _ => []

/-- The byte an instruction stores at entry k of `storedAddrs`: a decimal digit of V[X] for FX33 (R143), V[k] for FX55
(R144). The other instructions have no such entry. -/
def storedByte (s : State) (k : Nat) : Instr → Byte
  | .ldB x => BitVec.ofNat 8 (if k = 0 then (s.getV x).toNat / 100 else if k = 1 then (s.getV x).toNat / 10 % 10
      else (s.getV x).toNat % 10)
  | .stRegs _ => s.getV (Fin.ofNat 16 k)
  | .cls | .ret | .call _ | .jp _ | .jpV0 _ | .sys _ => 0
  | .seImm _ _ | .sneImm _ _ | .seReg _ _ | .sneReg _ _ | .skp _ | .sknp _ => 0
  | .ldImm _ _ | .addImm _ _ | .ldReg _ _ | .or _ _ | .and _ _ | .xor _ _ | .rnd _ _ => 0
  | .addReg _ _ | .sub _ _ | .shr _ _ | .subn _ _ | .shl _ _ | .drw _ _ _ => 0
  | .ldVxDt _ | .ldVxK _ | .ldDtVx _ | .ldStVx _ | .ldI _ | .addI _ | .ldF _ | .ldRegs _ => 0

/-- A pixel of the screen lies under a sprite bit of value 1 of the N-row sprite at ea(0) drawn at (V[X], V[Y]):
row r, column offset c goes to column (V[X] + c) mod 64 and row (V[Y] + r) mod 32, bit 7 - c of the byte at ea(r)
being the pixel (R151, R152, R153). -/
def SpritePixel (s : State) (x y : Reg) (n : BitVec 4) (px : Fin 64) (py : Fin 32) : Prop :=
  ∃ r c, r < n.toNat ∧ c < 8 ∧ (s.readByte (ea s.i r)).getLsbD (7 - c) = true ∧
    px.val = ((s.getV x).toNat + c) % 64 ∧ py.val = ((s.getV y).toNat + r) % 32

end Sys2Proof.Machine
end

