-- ==== Sys2Proof/Certificates/Slice0/Obligations.lean ====
section
/-!
DEFINITION. The statements for the provers, in the order of OBLIGATIONS.json. In every statement about `exec`, `s` is
the state an instruction's rule starts from: PC already holds pc0 + 2 (R84).
-/

open Sys2Proof Sys2Proof.Machine

/-! ## Encoding and decoding -/

/-- Words written out from the spec's encodings decode to the instructions they stand for (the source's example E10
and R86's patterns). That 0x01E0 is SYS is the spec's own decision D3, that 0x5121 is illegal its D2 (log entry 20).
The names of the two rejections, and the rejection of a byte string cut short, are the model's own choice (log entry
11). Sanity. -/
def Obligations.SpecWordsDecode : Prop :=
  decode [0x60, 0x0A] = .ok (.ldImm 0 0x0A, []) ∧ decode [0x80, 0x14] = .ok (.addReg 0 1, []) ∧
  decode [0xD0, 0x12, 0x77] = .ok (.drw 0 1 2, [0x77]) ∧ decode [0x12, 0x08] = .ok (.jp 0x208, []) ∧
  decode [0xF2, 0x65] = .ok (.ldRegs 2, []) ∧ decode [0xE1, 0xA1] = .ok (.sknp 1, []) ∧
  decode [0x00, 0xEE] = .ok (.ret, []) ∧ decode [0x01, 0xE0] = .ok (.sys 0x1E0, []) ∧
  decode [0x51, 0x21] = .error (.unmatchedFamily5 0x5121) ∧ decode [0x60] = .error .tooShort

/-- Decode and encode agree: the two bytes of a well-formed instruction's word decode to it, with every operand at
every value, and leave the bytes after them. That every word of family 0 but the two exact ones is SYS is the spec's own
decision D3 (log entry 20). -/
def Obligations.DecodeOfEncode : Prop :=
  ∀ (i : Instr) (rest : List Byte), i.wf = true → decode (wordBytes (encode i) ++ rest) = .ok (i, rest)

/-- The other direction: a word that decodes is the encoding of what it decodes to, so no legal word has an ignored
or dropped bit (SYS's NNN included) and no two words decode alike. Rests on the spec's own decisions D2 and D3 (log
entry 20). -/
def Obligations.EncodeOfDecode : Prop :=
  ∀ (w : Word) (i : Instr), decodeWord w = .ok i → i.wf = true ∧ encode i = w

/-- The illegal words are exactly those of R90's table, no more and no fewer. That 0x5XYn and 0x9XYn with n not 0 are
among them is the spec's own decision D2 (log entry 20). -/
def Obligations.IllegalWordsAreExactly : Prop :=
  ∀ w : Word, (∃ e, decodeWord w = .error e) ↔
    (family w = 0x5 ∧ fieldN w ≠ 0) ∨
    (family w = 0x8 ∧ fieldN w ∈ [0x8#4, 0x9#4, 0xA#4, 0xB#4, 0xC#4, 0xD#4, 0xF#4]) ∨
    (family w = 0x9 ∧ fieldN w ≠ 0) ∨
    (family w = 0xE ∧ fieldNN w ∉ [0x9E#8, 0xA1#8]) ∨
    (family w = 0xF ∧ fieldNN w ∉ [0x07#8, 0x0A#8, 0x15#8, 0x18#8, 0x1E#8, 0x29#8, 0x33#8, 0x55#8, 0x65#8])

/-- The decoder, written family by family (R85), and the opcode map's masks and values with the first match winning
(R86, R87) pick the same row for every one of the 65536 words, or none. Rests on the spec's decisions D2 and D3 (log
entry 20). -/
def Obligations.DecodeFollowsOpcodeMap : Prop :=
  ∀ w : Word, (firstRow w).map OpcodeRow.mnemonic = (decodeWord w).toOption.map Instr.mnemonic

/-! ## Fetch and step -/

/-- R53: the fetched word is 256 * MEM[pc0] + MEM[pc0 + 1]: the byte at the lower address is bits 15 to 8 (family and
X), the byte at the higher address bits 7 to 0 (Y and N, or NN). -/
def Obligations.FetchIsBigEndian : Prop :=
  ∀ s : State,
    s.fetchWord.toNat = 256 * (s.readByte s.pc.toNat).toNat + (s.readByte (s.pc.toNat + 1)).toNat ∧
    (family s.fetchWord).toNat = (s.readByte s.pc.toNat).toNat / 16 ∧
    (fieldX s.fetchWord).val = (s.readByte s.pc.toNat).toNat % 16 ∧
    fieldNN s.fetchWord = s.readByte (s.pc.toNat + 1) ∧
    (fieldY s.fetchWord).val = (s.readByte (s.pc.toNat + 1)).toNat / 16 ∧
    (fieldN s.fetchWord).toNat = (s.readByte (s.pc.toNat + 1)).toNat % 16

/-- R83: from a PC a fetch succeeds at, the bytes at PC and PC + 1 are read, PC is advanced by 2 before the
instruction they decode to executes, and the advance has happened also when they decode to none. -/
def Obligations.StepRunsDecodedInstruction : Prop :=
  ∀ s : State, s.pc.toNat ≤ 0xFFE →
    (∀ i, decode [s.readByte s.pc.toNat, s.readByte (s.pc.toNat + 1)] = .ok (i, []) →
      step s = exec i { s with pc := s.pc + 2 }) ∧
    (∀ e, decode [s.readByte s.pc.toNat, s.readByte (s.pc.toNat + 1)] = .error e →
      (event .step s).1 = { s with pc := s.pc + 2 })

/-- DecodeFailure is raised for exactly the fetched words that match no row of the opcode map (R174), and its record
names the word and its address. Which words match rests on the spec's own decisions D2 and D3 (log entry 20). -/
def Obligations.DecodeFailureExactly : Prop :=
  ∀ (s : State) (a w : Word), step s = .fault (.decodeFailure a w) ↔
    s.pc.toNat ≤ 0xFFE ∧ firstRow s.fetchWord = none ∧ a = s.pc ∧ w = s.fetchWord

/-- R173: StackUnderflow is raised by 00EE on an empty call stack, by nothing else, with the address and the word of
the instruction. -/
def Obligations.StackUnderflowExactly : Prop :=
  ∀ (i : Instr) (s : State) (a w : Word), exec i s = .fault (.stackUnderflow a w) ↔
    i = .ret ∧ s.stack = [] ∧ a = s.pc - 2 ∧ w = 0x00EE#16

/-- The record of a STEP's fault holds the address of the instruction that caused it and its word, absent when none
was fetched; that of a LOAD's fault the base address and no word. The record's form is the spec's own decision D18
(log entry 17). -/
def Obligations.FaultRecordNamesInstruction : Prop :=
  (∀ (s : State) (f : Fault), step s = .fault f →
    f.addr = s.pc ∧ f.word = if s.pc.toNat ≤ 0xFFE then some s.fetchWord else none) ∧
  (∀ (s : State) (base : Addr) (bytes : List Byte) (f : Fault), (event (.load base bytes) s).2 = .fault f →
    f.addr.toNat = base.toNat ∧ f.word = none)

/-- The complete list of a STEP's faults with their codes, in the order fetch, decode, execute: no other instruction
and no data access faults, and a step in none of the cases answers a next state. Codes, StackOverflow and
FetchOutOfRange are the spec's own decisions D18, D4, D6, and which words decode its D2, D3 (log entries 12, 17, 20,
22). -/
def Obligations.StepFaultsAreExactly : Prop :=
  ∀ s : State,
    (0xFFE < s.pc.toNat → ∃ f, step s = .fault f ∧ f.code = 5 ∧ f.name = "FetchOutOfRange") ∧
    (∀ e, s.pc.toNat ≤ 0xFFE → decodeWord s.fetchWord = .error e →
      ∃ f, step s = .fault f ∧ f.code = 3 ∧ f.name = "DecodeFailure") ∧
    (∀ i, s.pc.toNat ≤ 0xFFE → decodeWord s.fetchWord = .ok i →
      (i = .ret → s.stack = [] → ∃ f, step s = .fault f ∧ f.code = 2 ∧ f.name = "StackUnderflow") ∧
      (∀ nnn, i = .call nnn → s.params.stackDepth = some s.stack.length →
        ∃ f, step s = .fault f ∧ f.code = 4 ∧ f.name = "StackOverflow") ∧
      (¬(i = .ret ∧ s.stack = []) → ¬((∃ nnn, i = .call nnn) ∧ s.params.stackDepth = some s.stack.length) →
        ∃ t, step s = .next t))

/-- The state a STEP's fault leaves: PC past the instruction after a fault of the decoder or of the instruction, PC
unchanged after FetchOutOfRange, every other component unchanged; the host may step on from there. The spec's own
decision D19 (log entry 17). -/
def Obligations.FaultLeavesState : Prop :=
  ∀ (s : State) (f : Fault), step s = .fault f →
    (event .step s).2 = .fault f ∧
    (event .step s).1.pc = (if s.pc.toNat ≤ 0xFFE then s.pc + 2 else s.pc) ∧
    OnlyChanges [.pc] s (event .step s).1

/-! ## Control transfer -/

/-- Every word of family 0 but 00E0 and 00EE is a no-op (R100): nothing but the fetch advance. That the exact words
alone are taken out is the spec's own decision D3 (log entry 20). -/
def Obligations.SysIsNoOp : Prop :=
  ∀ (nnn : Addr) (s : State),
    (nnn ≠ 0x0E0 → nnn ≠ 0x0EE → decodeWord (0x0#4 ++ nnn) = .ok (.sys nnn)) ∧ exec (.sys nnn) s = .next s

/-- R102: JP sets PC to NNN, zero-extended, and changes nothing else. -/
def Obligations.JumpSetsPc : Prop :=
  ∀ (nnn : Addr) (s : State), decodeWord (0x1#4 ++ nnn) = .ok (.jp nnn) ∧
    ∃ t, exec (.jp nnn) s = .next t ∧ t.pc.toNat = nnn.toNat ∧ OnlyChanges [.pc] s t

/-- CALL pushes the address of the instruction after it as the newest entry and jumps; on a full stack it raises
StackOverflow with its own address and word (R103's pseudocode; the bound is the spec's own decision D4, log entry
22). -/
def Obligations.CallPushesReturnAddress : Prop :=
  ∀ (nnn : Addr) (s : State), decodeWord (0x2#4 ++ nnn) = .ok (.call nnn) ∧
    (s.params.stackDepth ≠ some s.stack.length →
      ∃ t, exec (.call nnn) s = .next t ∧ t.pc.toNat = nnn.toNat ∧ t.stack = s.pc :: s.stack ∧
        OnlyChanges [.pc, .stack] s t) ∧
    (s.params.stackDepth = some s.stack.length →
      exec (.call nnn) s = .fault (.stackOverflow (s.pc - 2) (0x2#4 ++ nnn)))

/-- RET pops the newest entry into PC as it stands and changes nothing else; on an empty stack it raises
StackUnderflow (R101's pseudocode). -/
def Obligations.RetPopsNewestEntry : Prop :=
  ∀ s : State, decodeWord 0x00EE = .ok .ret ∧
    (∀ w rest, s.stack = w :: rest →
      ∃ t, exec .ret s = .next t ∧ t.pc = w ∧ t.stack = rest ∧ OnlyChanges [.pc, .stack] s t) ∧
    (s.stack = [] → exec .ret s = .fault (.stackUnderflow (s.pc - 2) 0x00EE))

/-- The source's round trip E5: after a CALL, a RET at any place with the same stack restores PC to the instruction
after the call and the stack to what it was, whatever else has changed. -/
def Obligations.CallThenRetReturns : Prop :=
  ∀ (nnn : Addr) (s t u : State), exec (.call nnn) s = .next t → u.stack = t.stack →
    ∃ r, exec .ret u = .next r ∧ r.pc = s.pc ∧ r.stack = s.stack

/-- JP_V0 sets PC to the whole sum NNN + V0, at most 0x10FE, not reduced modulo 4096. That the sum is kept whole is
the spec's own decision D5 (log entry 12). -/
def Obligations.IndexedJumpKeepsWholeSum : Prop :=
  ∀ (nnn : Addr) (s : State), decodeWord (0xB#4 ++ nnn) = .ok (.jpV0 nnn) ∧
    ∃ t, exec (.jpV0 nnn) s = .next t ∧ t.pc.toNat = nnn.toNat + (s.getV 0).toNat ∧ t.pc.toNat ≤ 0x10FE ∧
      OnlyChanges [.pc] s t

/-! ## Skips -/

/-- R110, R111: SE_IMM and SNE_IMM add 2 to PC modulo 65536 on equality and on inequality, else leave it, and change
nothing else. -/
def Obligations.ImmediateSkips : Prop :=
  ∀ (x : Reg) (nn : Byte) (s : State),
    decodeWord (0x3#4 ++ regBits x ++ nn) = .ok (.seImm x nn) ∧
    (∃ t, exec (.seImm x nn) s = .next t ∧ OnlyChanges [.pc] s t ∧
      t.pc.toNat = (if (s.getV x).toNat = nn.toNat then (s.pc.toNat + 2) % 65536 else s.pc.toNat)) ∧
    decodeWord (0x4#4 ++ regBits x ++ nn) = .ok (.sneImm x nn) ∧
    (∃ t, exec (.sneImm x nn) s = .next t ∧ OnlyChanges [.pc] s t ∧
      t.pc.toNat = (if (s.getV x).toNat = nn.toNat then s.pc.toNat else (s.pc.toNat + 2) % 65536))

/-- R112, R113: SE_REG and SNE_REG the same on two registers; with X = Y the first always skips, the second never. -/
def Obligations.RegisterSkips : Prop :=
  ∀ (x y : Reg) (s : State),
    decodeWord (0x5#4 ++ regBits x ++ regBits y ++ 0x0#4) = .ok (.seReg x y) ∧
    (∃ t, exec (.seReg x y) s = .next t ∧ OnlyChanges [.pc] s t ∧ (x = y → t.pc = s.pc + 2) ∧
      t.pc.toNat = (if (s.getV x).toNat = (s.getV y).toNat then (s.pc.toNat + 2) % 65536 else s.pc.toNat)) ∧
    decodeWord (0x9#4 ++ regBits x ++ regBits y ++ 0x0#4) = .ok (.sneReg x y) ∧
    (∃ t, exec (.sneReg x y) s = .next t ∧ OnlyChanges [.pc] s t ∧ (x = y → t.pc = s.pc) ∧
      t.pc.toNat = (if (s.getV x).toNat = (s.getV y).toNat then s.pc.toNat else (s.pc.toNat + 2) % 65536))

/-- SKP and SKNP test the key named by V[X]'s low nibble, with opposite polarity. That only the low nibble counts is
the spec's own decision D15 (log entry 15). -/
def Obligations.KeySkips : Prop :=
  ∀ (x : Reg) (s : State),
    decodeWord (0xE#4 ++ regBits x ++ 0x9E#8) = .ok (.skp x) ∧
    (∃ t, exec (.skp x) s = .next t ∧ OnlyChanges [.pc] s t ∧
      t.pc.toNat =
        (if s.keys.getLsbD ((s.getV x).toNat % 16) = true then (s.pc.toNat + 2) % 65536 else s.pc.toNat)) ∧
    decodeWord (0xE#4 ++ regBits x ++ 0xA1#8) = .ok (.sknp x) ∧
    (∃ t, exec (.sknp x) s = .next t ∧ OnlyChanges [.pc] s t ∧
      t.pc.toNat =
        (if s.keys.getLsbD ((s.getV x).toNat % 16) = true then s.pc.toNat else (s.pc.toNat + 2) % 65536))

/-! ## Loads and arithmetic -/

/-- R120, R122: LD_IMM and LD_REG give V[X] the immediate and V[Y], and write no other register. -/
def Obligations.RegisterLoads : Prop :=
  ∀ (x y : Reg) (nn : Byte) (s : State),
    decodeWord (0x6#4 ++ regBits x ++ nn) = .ok (.ldImm x nn) ∧
    (∃ t, exec (.ldImm x nn) s = .next t ∧ t.getV x = nn ∧ OnlyWritesRegs [x] s t ∧ OnlyChanges [.v] s t) ∧
    decodeWord (0x8#4 ++ regBits x ++ regBits y ++ 0x0#4) = .ok (.ldReg x y) ∧
    (∃ t, exec (.ldReg x y) s = .next t ∧ t.getV x = s.getV y ∧ OnlyWritesRegs [x] s t ∧ OnlyChanges [.v] s t)

/-- R121: ADD_IMM wraps modulo 256 and writes no register but V[X]: no flag. -/
def Obligations.AddImmediateWraps : Prop :=
  ∀ (x : Reg) (nn : Byte) (s : State), decodeWord (0x7#4 ++ regBits x ++ nn) = .ok (.addImm x nn) ∧
    ∃ t, exec (.addImm x nn) s = .next t ∧ (t.getV x).toNat = ((s.getV x).toNat + nn.toNat) % 256 ∧
      OnlyWritesRegs [x] s t ∧ OnlyChanges [.v] s t

/-- OR, AND and XOR work bit by bit on V[X] and V[Y] and write no register but V[X]. That VF is not written is the
spec's own decision D27 (log entry 16). -/
def Obligations.BitwiseOperations : Prop :=
  ∀ (x y : Reg) (s : State),
    decodeWord (0x8#4 ++ regBits x ++ regBits y ++ 0x1#4) = .ok (.or x y) ∧
    decodeWord (0x8#4 ++ regBits x ++ regBits y ++ 0x2#4) = .ok (.and x y) ∧
    decodeWord (0x8#4 ++ regBits x ++ regBits y ++ 0x3#4) = .ok (.xor x y) ∧
    (∃ t, exec (.or x y) s = .next t ∧ OnlyWritesRegs [x] s t ∧ OnlyChanges [.v] s t ∧
      ∀ k, k < 8 → ((t.getV x).getLsbD k = true ↔ (s.getV x).getLsbD k = true ∨ (s.getV y).getLsbD k = true)) ∧
    (∃ t, exec (.and x y) s = .next t ∧ OnlyWritesRegs [x] s t ∧ OnlyChanges [.v] s t ∧
      ∀ k, k < 8 → ((t.getV x).getLsbD k = true ↔ (s.getV x).getLsbD k = true ∧ (s.getV y).getLsbD k = true)) ∧
    (∃ t, exec (.xor x y) s = .next t ∧ OnlyWritesRegs [x] s t ∧ OnlyChanges [.v] s t ∧
      ∀ k, k < 8 → ((t.getV x).getLsbD k = true ↔ (s.getV x).getLsbD k ≠ (s.getV y).getLsbD k))

/-- R126: ADD_REG. V[X] receives the sum modulo 256 for every X; VF receives the carry unless X = 0xF, when the sum
wins. -/
def Obligations.AddSetsCarry : Prop :=
  ∀ (x y : Reg) (s : State), decodeWord (0x8#4 ++ regBits x ++ regBits y ++ 0x4#4) = .ok (.addReg x y) ∧
    ∃ t, exec (.addReg x y) s = .next t ∧ OnlyWritesRegs [x, 15] s t ∧ OnlyChanges [.v] s t ∧
      (t.getV x).toNat = ((s.getV x).toNat + (s.getV y).toNat) % 256 ∧
      (x ≠ 15 → t.getV 15 = if (s.getV x).toNat + (s.getV y).toNat > 255 then 1 else 0)

/-- R127: SUB. V[X] receives V[X] - V[Y] modulo 256; VF is 0 on a borrow, else 1, unless X = 0xF. -/
def Obligations.SubtractSetsNoBorrow : Prop :=
  ∀ (x y : Reg) (s : State), decodeWord (0x8#4 ++ regBits x ++ regBits y ++ 0x5#4) = .ok (.sub x y) ∧
    ∃ t, exec (.sub x y) s = .next t ∧ OnlyWritesRegs [x, 15] s t ∧ OnlyChanges [.v] s t ∧
      ((t.getV x).toNat : Int) = (((s.getV x).toNat : Int) - (s.getV y).toNat) % 256 ∧
      (x ≠ 15 → t.getV 15 = if (s.getV y).toNat > (s.getV x).toNat then 0 else 1)

/-- R129: SUBN. V[X] receives V[Y] - V[X] modulo 256; VF is 0 on a borrow, else 1, unless X = 0xF. -/
def Obligations.ReverseSubtractSetsNoBorrow : Prop :=
  ∀ (x y : Reg) (s : State), decodeWord (0x8#4 ++ regBits x ++ regBits y ++ 0x7#4) = .ok (.subn x y) ∧
    ∃ t, exec (.subn x y) s = .next t ∧ OnlyWritesRegs [x, 15] s t ∧ OnlyChanges [.v] s t ∧
      ((t.getV x).toNat : Int) = (((s.getV y).toNat : Int) - (s.getV x).toNat) % 256 ∧
      (x ≠ 15 → t.getV 15 = if (s.getV x).toNat > (s.getV y).toNat then 0 else 1)

/-- R128, R130: SHR and SHL shift V[Y] by one into V[X]; VF receives the bit shifted out as 0 or 1 unless X = 0xF. -/
def Obligations.ShiftsReadVy : Prop :=
  ∀ (x y : Reg) (s : State),
    decodeWord (0x8#4 ++ regBits x ++ regBits y ++ 0x6#4) = .ok (.shr x y) ∧
    (∃ t, exec (.shr x y) s = .next t ∧ OnlyWritesRegs [x, 15] s t ∧ OnlyChanges [.v] s t ∧
      (t.getV x).toNat = (s.getV y).toNat / 2 ∧ (x ≠ 15 → (t.getV 15).toNat = (s.getV y).toNat % 2)) ∧
    decodeWord (0x8#4 ++ regBits x ++ regBits y ++ 0xE#4) = .ok (.shl x y) ∧
    (∃ t, exec (.shl x y) s = .next t ∧ OnlyWritesRegs [x, 15] s t ∧ OnlyChanges [.v] s t ∧
      (t.getV x).toNat = 2 * (s.getV y).toNat % 256 ∧ (x ≠ 15 → (t.getV 15).toNat = (s.getV y).toNat / 128))

/-- RND takes one draw, whatever NN is, and gives V[X] the byte drawn masked by NN: bit k is the drawn bit where NN
has a 1 and 0 where NN has a 0. The byte drawn is a free value (log entry 3, the spec's decision D17). -/
def Obligations.RandomByteIsMasked : Prop :=
  ∀ (x : Reg) (nn : Byte) (s : State), decodeWord (0xC#4 ++ regBits x ++ nn) = .ok (.rnd x nn) ∧
    ∃ t, exec (.rnd x nn) s = .next t ∧ OnlyWritesRegs [x] s t ∧ OnlyChanges [.v, .rng] s t ∧
      t.rng.seed = s.rng.seed ∧ t.rng.draws = s.rng.draws + 1 ∧
      ∀ k, k < 8 → (t.getV x).getLsbD k =
        if nn.getLsbD k = true then (Config.randomByte s.rng.seed s.rng.draws).getLsbD k else false

/-! ## Address register and memory -/

/-- R140: LD_I gives I the address NNN, zero-extended. -/
def Obligations.LoadIndexRegister : Prop :=
  ∀ (nnn : Addr) (s : State), decodeWord (0xA#4 ++ nnn) = .ok (.ldI nnn) ∧
    ∃ t, exec (.ldI nnn) s = .next t ∧ t.i.toNat = nnn.toNat ∧ OnlyChanges [.i] s t

/-- ADD_I adds V[X] to I modulo 65536, writes no flag, and moves every effective address by V[X] modulo 4096 whether
or not I wraps. The width of I's arithmetic is the spec's own decision D7, the effective address its D8 (log entry
13). -/
def Obligations.AddToIndexRegister : Prop :=
  ∀ (x : Reg) (s : State), decodeWord (0xF#4 ++ regBits x ++ 0x1E#8) = .ok (.addI x) ∧
    ∃ t, exec (.addI x) s = .next t ∧ t.i.toNat = (s.i.toNat + (s.getV x).toNat) % 65536 ∧
      (∀ k, ea t.i k = (s.i.toNat + (s.getV x).toNat + k) % 4096) ∧ OnlyChanges [.i] s t

/-- LD_F gives I the address FONT_BASE + 5 * d, d the low nibble of V[X], below 0x200 for every legal FONT_BASE
(the parameter is the spec's D9, log entry 4). -/
def Obligations.GlyphAddress : Prop :=
  ∀ (x : Reg) (s : State), s.params.wf → decodeWord (0xF#4 ++ regBits x ++ 0x29#8) = .ok (.ldF x) ∧
    ∃ t, exec (.ldF x) s = .next t ∧ t.i.toNat = s.params.fontBase + 5 * ((s.getV x).toNat % 16) ∧
      t.i.toNat + 5 ≤ 0x200 ∧ OnlyChanges [.i] s t

/-- LD_B stores the hundreds, tens and ones of V[X] at ea(0), ea(1), ea(2), leaves I, and stores to no other byte.
The effective address is the spec's decision D8 (log entry 13). -/
def Obligations.DecimalDigitsStored : Prop :=
  ∀ (x : Reg) (s : State), decodeWord (0xF#4 ++ regBits x ++ 0x33#8) = .ok (.ldB x) ∧
    ∃ t, exec (.ldB x) s = .next t ∧
      (t.readByte (ea s.i 0)).toNat = (s.getV x).toNat / 100 ∧
      (t.readByte (ea s.i 1)).toNat = (s.getV x).toNat / 10 % 10 ∧
      (t.readByte (ea s.i 2)).toNat = (s.getV x).toNat % 10 ∧
      OnlyStoresTo [ea s.i 0, ea s.i 1, ea s.i 2] s t ∧ OnlyChanges [.mem] s t

/-- ST_REGS stores V[0] to V[X] at ea(0) to ea(X), stores to no other byte, and moves I past the block modulo 65536.
The spec's decisions D7 and D8 (log entry 13). -/
def Obligations.RegistersStored : Prop :=
  ∀ (x : Reg) (s : State), decodeWord (0xF#4 ++ regBits x ++ 0x55#8) = .ok (.stRegs x) ∧
    ∃ t, exec (.stRegs x) s = .next t ∧ (∀ r : Reg, r ≤ x → t.readByte (ea s.i r.val) = s.getV r) ∧
      OnlyStoresTo ((List.range (x.val + 1)).map (ea s.i)) s t ∧
      t.i.toNat = (s.i.toNat + x.val + 1) % 65536 ∧ OnlyChanges [.mem, .i] s t

/-- LD_REGS loads V[0] to V[X] from ea(0) to ea(X), keeps the registers above, stores nothing, and moves I past the
block modulo 65536. The spec's decisions D7 and D8 (log entry 13). -/
def Obligations.RegistersLoaded : Prop :=
  ∀ (x : Reg) (s : State), decodeWord (0xF#4 ++ regBits x ++ 0x65#8) = .ok (.ldRegs x) ∧
    ∃ t, exec (.ldRegs x) s = .next t ∧ (∀ r : Reg, r ≤ x → t.getV r = s.readByte (ea s.i r.val)) ∧
      (∀ r : Reg, x < r → t.getV r = s.getV r) ∧
      t.i.toNat = (s.i.toNat + x.val + 1) % 65536 ∧ OnlyChanges [.v, .i] s t

/-- A block stored by ST_REGS and loaded back by LD_REGS from the same I gives the registers back, whatever happened
to the registers in between; across the top of memory too (D8, log entry 13). -/
def Obligations.StoreThenLoadRestoresRegisters : Prop :=
  ∀ (x : Reg) (s t u : State), exec (.stRegs x) s = .next t → u.mem = t.mem → u.i = s.i →
    ∃ w, exec (.ldRegs x) u = .next w ∧ ∀ r : Reg, r ≤ x → w.getV r = s.getV r

/-- A store is seen by the very next fetch, and by every later one while memory stays as it is: over all 35
instructions, a byte of the fetched word is the byte the instruction stored there if its address is one stored to (the
digits of FX33, the registers of FX55, one byte of the word or both), and the byte from before if it is not. The same
for a LOAD between two steps. `u` is a state with the memory the store left and any PC. R64 is marked derived and
decision D23 by the spec, and the addresses are its D8 (log entry 13), LOAD's base and bound its D21 (log entry 19). -/
def Obligations.StoreIsSeenByFetch : Prop :=
  (∀ (i : Instr) (s t u : State), exec i s = .next t → u.mem = t.mem →
    (∀ k a, (storedAddrs s i)[k]? = some a →
      (u.pc.toNat = a → highByte u.fetchWord = storedByte s k i) ∧
      (u.pc.toNat + 1 = a → lowByte u.fetchWord = storedByte s k i)) ∧
    (u.pc.toNat ∉ storedAddrs s i → highByte u.fetchWord = s.readByte u.pc.toNat) ∧
    (u.pc.toNat + 1 ∉ storedAddrs s i → lowByte u.fetchWord = s.readByte (u.pc.toNat + 1))) ∧
  (∀ (base : Addr) (bytes : List Byte) (s u : State), base.toNat + bytes.length ≤ 4096 →
    u.mem = (event (.load base bytes) s).1.mem → ∀ k (h : k < bytes.length),
      (u.pc.toNat = base.toNat + k → highByte u.fetchWord = bytes[k]) ∧
      (u.pc.toNat + 1 = base.toNat + k → lowByte u.fetchWord = bytes[k]))

/-! ## Display -/

/-- R150: CLS clears every cell, so a display read gives 2048 zeros, and writes nothing else, VF included. -/
def Obligations.ClearDisplay : Prop :=
  ∀ s : State, decodeWord 0x00E0 = .ok .cls ∧
    ∃ t, exec .cls s = .next t ∧ (∀ px py, t.disp.cell px py = false) ∧
      (event .displayRead t).2 = .display (Vector.replicate 2048 false) ∧ OnlyChanges [.disp] s t

/-- DRW, pixel by pixel: a cell is flipped if it lies under a sprite bit of value 1 and keeps its value otherwise;
nothing else changes but VF. Wraparound of every pixel and bit 7 leftmost are the spec's own decisions D11 and D12
(log entry 14), the addresses of the sprite's bytes its D8 (log entry 13). -/
def Obligations.DrawFlipsSpritePixels : Prop :=
  ∀ (x y : Reg) (n : BitVec 4) (s : State),
    decodeWord (0xD#4 ++ regBits x ++ regBits y ++ n) = .ok (.drw x y n) ∧
    ∃ t, exec (.drw x y n) s = .next t ∧ OnlyWritesRegs [15] s t ∧ OnlyChanges [.v, .disp] s t ∧
      ∀ px py, (SpritePixel s x y n px py → t.disp.cell px py = !s.disp.cell px py) ∧
        (¬SpritePixel s x y n px py → t.disp.cell px py = s.disp.cell px py)

/-- DRW always writes VF: 1 if some sprite bit of value 1 meets a cell that holds 1 before the draw, else 0; for
N = 0 it is 0. That 0 is written is the spec's own decision D14, which cells lie under a sprite bit its D11 and D12
(log entry 14) and D8 (log entry 13). -/
def Obligations.DrawSetsCollisionFlag : Prop :=
  ∀ (x y : Reg) (n : BitVec 4) (s : State),
    ∃ t, exec (.drw x y n) s = .next t ∧
      ((∃ px py, SpritePixel s x y n px py ∧ s.disp.cell px py = true) → t.getV 15 = 1) ∧
      ((¬∃ px py, SpritePixel s x y n px py ∧ s.disp.cell px py = true) → t.getV 15 = 0) ∧
      (n = 0 → t.getV 15 = 0 ∧ t.disp = s.disp)

/-- The XOR law: drawing the same sprite twice at the same coordinates restores every cell, for every V[X], V[Y], N
and sprite; and the second draw gives VF = 1 exactly when some cell under a sprite bit of value 1 held 0 before the
first. `u` is the state after the first draw with the registers put back, so that the coordinates are the same also
when X or Y is 0xF. Derived by the spec (R155) from its decisions D11, D12 and D14 (log entry 14), and D8 (log entry
13) for the addresses of the sprite's bytes. -/
def Obligations.DrawTwiceRestoresDisplay : Prop :=
  ∀ (x y : Reg) (n : BitVec 4) (s t u w : State), exec (.drw x y n) s = .next t → u = { t with v := s.v } →
    exec (.drw x y n) u = .next w →
    w.disp = s.disp ∧ (w.getV 15 = 1 ↔ ∃ px py, SpritePixel s x y n px py ∧ s.disp.cell px py = false)

/-! ## Keypad and timers -/

/-- LD_VX_K with no key down puts PC back by 2 and changes nothing else, a normal end; with a key down V[X] receives
the least index of a key that is down, PC stays past the instruction and KEY is unchanged. That the least is reported
is the spec's own decision D16 (log entry 15). -/
def Obligations.KeyWaitStallsOrTakesLeastKey : Prop :=
  ∀ (x : Reg) (s : State), decodeWord (0xF#4 ++ regBits x ++ 0x0A#8) = .ok (.ldVxK x) ∧
    ((∀ k : Reg, s.keys.getLsbD k.val = false) →
      ∃ t, exec (.ldVxK x) s = .next t ∧ t.pc = s.pc - 2 ∧ OnlyChanges [.pc] s t) ∧
    (∀ k : Reg, s.keys.getLsbD k.val = true → (∀ j : Reg, j < k → s.keys.getLsbD j.val = false) →
      ∃ t, exec (.ldVxK x) s = .next t ∧ (t.getV x).toNat = k.val ∧ OnlyWritesRegs [x] s t ∧ OnlyChanges [.v] s t)

/-- A STEP that stalls in FX0A ends normally and changes no state at all, PC included. -/
def Obligations.StalledStepChangesNothing : Prop :=
  ∀ (x : Reg) (s : State), s.pc.toNat ≤ 0xFFE → decodeWord s.fetchWord = .ok (.ldVxK x) →
    (∀ k : Reg, s.keyDown k = false) → step s = .next s

/-- R163, R164, R165: FX07 gives V[X] the delay timer, FX15 and FX18 give the delay and the sound timer V[X]; nothing
else changes. -/
def Obligations.TimerTransfers : Prop :=
  ∀ (x : Reg) (s : State),
    decodeWord (0xF#4 ++ regBits x ++ 0x07#8) = .ok (.ldVxDt x) ∧
    (∃ t, exec (.ldVxDt x) s = .next t ∧ t.getV x = s.dt ∧ OnlyWritesRegs [x] s t ∧ OnlyChanges [.v] s t) ∧
    decodeWord (0xF#4 ++ regBits x ++ 0x15#8) = .ok (.ldDtVx x) ∧
    (∃ t, exec (.ldDtVx x) s = .next t ∧ t.dt = s.getV x ∧ OnlyChanges [.dt] s t) ∧
    decodeWord (0xF#4 ++ regBits x ++ 0x18#8) = .ok (.ldStVx x) ∧
    (∃ t, exec (.ldStVx x) s = .next t ∧ t.st = s.getV x ∧ OnlyChanges [.st] s t)

/-! ## Host events -/

/-- R183: TICK takes 1 from each timer, floored at 0, and changes nothing else. -/
def Obligations.TickDecrementsTimers : Prop :=
  ∀ s : State, (event .tick s).1.dt.toNat = s.dt.toNat - 1 ∧ (event .tick s).1.st.toNat = s.st.toNat - 1 ∧
    OnlyChanges [.dt, .st] s (event .tick s).1 ∧ (event .tick s).2 = .nothing

/-- The source's property E9, for every number of ticks: after n ticks each timer holds its value less n, and 0 from
then on. -/
def Obligations.TicksReachZero : Prop :=
  ∀ (n : Nat) (s : State),
    (runEvents (List.replicate n .tick) s).1.dt.toNat = s.dt.toNat - n ∧
    (runEvents (List.replicate n .tick) s).1.st.toNat = s.st.toNat - n

/-- RESET from any state leaves the values of R38's table, PC at 0x200, and does not touch RNG or the parameters. That
I is 0, the stack empty and RNG kept are the spec's own decisions D20 and D17 (log entries 3 and 18). -/
def Obligations.ResetValues : Prop :=
  ∀ s : State, ∃ t, event .reset s = (t, .nothing) ∧ (∀ r, t.getV r = 0) ∧ t.i = 0 ∧ t.pc = 0x200 ∧ t.stack = [] ∧
    t.dt = 0 ∧ t.st = 0 ∧ (∀ k, t.keyDown k = false) ∧ (∀ px py, t.disp.cell px py = false) ∧
    (∀ a, t.readByte a = 0) ∧ t.rng = s.rng ∧ t.params = s.params

/-- LOAD of an image that fits puts its bytes at base, base + 1, ..., keeps every other byte and every other
component, and is Ok. The base argument and the bound are the spec's own decision D21 (log entry 19). -/
def Obligations.LoadWritesImage : Prop :=
  ∀ (base : Addr) (bytes : List Byte) (s : State), base.toNat + bytes.length ≤ 4096 →
    ∃ t, event (.load base bytes) s = (t, .ok) ∧
      (∀ k (h : k < bytes.length), t.readByte (base.toNat + k) = bytes[k]) ∧
      (∀ a, (a < base.toNat ∨ base.toNat + bytes.length ≤ a) → t.readByte a = s.readByte a) ∧
      OnlyChanges [.mem] s t

/-- An image that would pass the end of memory is reported to the caller and not one byte is written (R172); no image
that fits is. The base argument and the bound are the spec's own decision D21 (log entry 19). -/
def Obligations.LoadNeverTruncates : Prop :=
  ∀ (base : Addr) (bytes : List Byte) (s : State),
    (4096 < base.toNat + bytes.length →
      event (.load base bytes) s = (s, .fault (.loadError base bytes.length))) ∧
    (∀ f, (event (.load base bytes) s).2 = .fault f → 4096 < base.toNat + bytes.length)

/-- KEY_WRITE writes the whole vector at once, bit k to key k, and changes nothing else (R184). That the event takes
all 16 flags is the spec's own decision D28 (log entry 21). -/
def Obligations.KeyWriteSetsAllKeys : Prop :=
  ∀ (keys : BitVec 16) (s : State), (∀ k : Reg, (event (.keyWrite keys) s).1.keyDown k = keys.getLsbD k.val) ∧
    OnlyChanges [.keys] s (event (.keyWrite keys) s).1

/-- DISPLAY_READ gives the 2048 cells in order, cell (x, y) at index 64*y + x, and SOUND_READ whether ST is not 0;
neither changes any state. The flat order is the spec's own decision D13 (log entry 7). -/
def Obligations.HostReadsSeeState : Prop :=
  ∀ s : State, (∃ cells, event .displayRead s = (s, .display cells) ∧
      ∀ (x : Fin 64) (y : Fin 32) (h : 64 * y.val + x.val < 2048), cells[64 * y.val + x.val] = s.disp.cell x y) ∧
    ∃ b, event .soundRead s = (s, .sound b) ∧ (b = true ↔ s.st.toNat ≠ 0)

/-! ## Whole-machine rules -/

/-- The state record's "written by" column (R20) over all 35 instructions: an instruction that completes leaves every
component it is not listed as a writer of. -/
def Obligations.OnlyListedWritersWrite : Prop :=
  ∀ (i : Instr) (s t : State), exec i s = .next t → OnlyChanges (mayWrite i) s t

/-- Over all 35 instructions: only the destination registers are written, and VF implicitly by the six instructions
of R23 alone. That the bitwise instructions are not among them is the spec's own decision D27 (log entry 16). -/
def Obligations.OnlyDestinationsWritten : Prop :=
  ∀ (i : Instr) (s t : State), exec i s = .next t → OnlyWritesRegs (destRegs i) s t

/-- Over all 35 instructions: no byte of memory changes but those at the addresses FX33 and FX55 compute, ea of the
state they start from (D8, log entry 13). -/
def Obligations.OnlyAddressedBytesStored : Prop :=
  ∀ (i : Instr) (s t : State), exec i s = .next t → OnlyStoresTo (storedAddrs s i) s t

/-- No instruction reads ST: two states that differ only in ST run every instruction to states that agree on every
other component, or to the same fault. -/
def Obligations.NoInstructionReadsSoundTimer : Prop :=
  ∀ (i : Instr) (s : State) (b : Byte),
    (∀ t, exec i s = .next t → ∃ u, exec i { s with st := b } = .next u ∧ OnlyChanges [.st] t u) ∧
    (∀ f, exec i s = .fault f → exec i { s with st := b } = .fault f)

/-- Only CXNN observes the random source: any other instruction runs alike whatever its state, and leaves it. -/
def Obligations.OnlyRndObservesRandomSource : Prop :=
  ∀ (i : Instr) (s : State) (g : Rng), (∀ x nn, i ≠ .rnd x nn) →
    (∀ t, exec i s = .next t → exec i { s with rng := g } = .next { t with rng := g } ∧ t.rng = s.rng) ∧
    (∀ f, exec i s = .fault f → exec i { s with rng := g } = .fault f)

/-- Over every host event: the delay timer rises only at a STEP of FX15, falls only at a TICK, a RESET or a STEP of
FX15, and a TICK takes exactly 1 from it, floored at 0 (R183; R211's second half). What FX15 and RESET leave in it is
stated in TimerTransfers and ResetValues. -/
def Obligations.DelayTimerOnlyRisesByWrite : Prop :=
  ∀ (e : HostEvent) (s : State),
    (s.dt.toNat < (event e s).1.dt.toNat → e = .step ∧ ∃ x, decodeWord s.fetchWord = .ok (.ldDtVx x)) ∧
    ((event e s).1.dt.toNat < s.dt.toNat →
      e = .tick ∨ e = .reset ∨ (e = .step ∧ ∃ x, decodeWord s.fetchWord = .ok (.ldDtVx x))) ∧
    (e = .tick → (event e s).1.dt.toNat = s.dt.toNat - 1)

/-! ## Invariants -/

/-- The state right after RESET meets the invariant (with the parameter values of log entry 4). -/
def Obligations.ResetMeetsInvariant : Prop := Inv State.reset

/-- Every STEP keeps the invariant: memory stays canonical and within its 4096 cells, the parameters stay legal, at
most STACK_DEPTH saved PCs in 0x0002 to 0x1000, and PC at most 0x10FE. The canonical form is the model's own choice
(log entry 6), the bound on the depth the spec's decision D4 (log entry 22). The bounds on PC and on a saved PC are
sentences R26 and R101 mark as derived, from the spec's decisions D5 and D6 (log entry 12). -/
def Obligations.StepKeepsInvariant : Prop := ∀ s t : State, Inv s → step s = .next t → Inv t

/-- Every run of host events keeps the invariant: whatever the host does, faults and what follows them included. The
invariant rests on log entries 6 (the model's own canonical form), 12 (the spec's D5 and D6) and 22 (its D4), the state
after a fault on its D19 (log entry 17), LOAD on its D21 (log entry 19). -/
def Obligations.EventsKeepInvariant : Prop :=
  ∀ (es : List HostEvent) (s : State), Inv s → Inv (runEvents es s).1
end

