-- ==== Sys2Proof/Laws/State.lean ====
section
/-!
SUPPORT. One lemma per field per state update, so that no later proof unfolds a record update.
-/

namespace Sys2Proof.Machine

variable (s : State)

@[simp] theorem State.setV_v (r : Reg) (b : Byte) : (s.setV r b).v = s.v.set r b := rfl
@[simp] theorem State.setV_i (r : Reg) (b : Byte) : (s.setV r b).i = s.i := rfl
@[simp] theorem State.setV_pc (r : Reg) (b : Byte) : (s.setV r b).pc = s.pc := rfl
@[simp] theorem State.setV_stack (r : Reg) (b : Byte) : (s.setV r b).stack = s.stack := rfl
@[simp] theorem State.setV_dt (r : Reg) (b : Byte) : (s.setV r b).dt = s.dt := rfl
@[simp] theorem State.setV_st (r : Reg) (b : Byte) : (s.setV r b).st = s.st := rfl
@[simp] theorem State.setV_keys (r : Reg) (b : Byte) : (s.setV r b).keys = s.keys := rfl
@[simp] theorem State.setV_disp (r : Reg) (b : Byte) : (s.setV r b).disp = s.disp := rfl
@[simp] theorem State.setV_mem (r : Reg) (b : Byte) : (s.setV r b).mem = s.mem := rfl
@[simp] theorem State.setV_rng (r : Reg) (b : Byte) : (s.setV r b).rng = s.rng := rfl
@[simp] theorem State.setV_params (r : Reg) (b : Byte) : (s.setV r b).params = s.params := rfl

@[simp] theorem State.writeFlagThenResult_v (x : Reg) (f b : Byte) : (s.writeFlagThenResult x f b).v = (s.v.set flagReg f).set x b := rfl
@[simp] theorem State.writeFlagThenResult_i (x : Reg) (f b : Byte) : (s.writeFlagThenResult x f b).i = s.i := rfl
@[simp] theorem State.writeFlagThenResult_pc (x : Reg) (f b : Byte) : (s.writeFlagThenResult x f b).pc = s.pc := rfl
@[simp] theorem State.writeFlagThenResult_stack (x : Reg) (f b : Byte) : (s.writeFlagThenResult x f b).stack = s.stack := rfl
@[simp] theorem State.writeFlagThenResult_dt (x : Reg) (f b : Byte) : (s.writeFlagThenResult x f b).dt = s.dt := rfl
@[simp] theorem State.writeFlagThenResult_st (x : Reg) (f b : Byte) : (s.writeFlagThenResult x f b).st = s.st := rfl
@[simp] theorem State.writeFlagThenResult_keys (x : Reg) (f b : Byte) : (s.writeFlagThenResult x f b).keys = s.keys := rfl
@[simp] theorem State.writeFlagThenResult_disp (x : Reg) (f b : Byte) : (s.writeFlagThenResult x f b).disp = s.disp := rfl
@[simp] theorem State.writeFlagThenResult_mem (x : Reg) (f b : Byte) : (s.writeFlagThenResult x f b).mem = s.mem := rfl
@[simp] theorem State.writeFlagThenResult_rng (x : Reg) (f b : Byte) : (s.writeFlagThenResult x f b).rng = s.rng := rfl
@[simp] theorem State.writeFlagThenResult_params (x : Reg) (f b : Byte) : (s.writeFlagThenResult x f b).params = s.params := rfl

@[simp] theorem State.advance_v : s.advance.v = s.v := rfl
@[simp] theorem State.advance_i : s.advance.i = s.i := rfl
@[simp] theorem State.advance_pc : s.advance.pc = s.pc + 2 := rfl
@[simp] theorem State.advance_stack : s.advance.stack = s.stack := rfl
@[simp] theorem State.advance_dt : s.advance.dt = s.dt := rfl
@[simp] theorem State.advance_st : s.advance.st = s.st := rfl
@[simp] theorem State.advance_keys : s.advance.keys = s.keys := rfl
@[simp] theorem State.advance_disp : s.advance.disp = s.disp := rfl
@[simp] theorem State.advance_mem : s.advance.mem = s.mem := rfl
@[simp] theorem State.advance_rng : s.advance.rng = s.rng := rfl
@[simp] theorem State.advance_params : s.advance.params = s.params := rfl

@[simp] theorem State.jump_v (w : Word) : (s.jump w).v = s.v := rfl
@[simp] theorem State.jump_i (w : Word) : (s.jump w).i = s.i := rfl
@[simp] theorem State.jump_pc (w : Word) : (s.jump w).pc = w := rfl
@[simp] theorem State.jump_stack (w : Word) : (s.jump w).stack = s.stack := rfl
@[simp] theorem State.jump_dt (w : Word) : (s.jump w).dt = s.dt := rfl
@[simp] theorem State.jump_st (w : Word) : (s.jump w).st = s.st := rfl
@[simp] theorem State.jump_keys (w : Word) : (s.jump w).keys = s.keys := rfl
@[simp] theorem State.jump_disp (w : Word) : (s.jump w).disp = s.disp := rfl
@[simp] theorem State.jump_mem (w : Word) : (s.jump w).mem = s.mem := rfl
@[simp] theorem State.jump_rng (w : Word) : (s.jump w).rng = s.rng := rfl
@[simp] theorem State.jump_params (w : Word) : (s.jump w).params = s.params := rfl

@[simp] theorem State.push_v (w : Word) : (s.push w).v = s.v := rfl
@[simp] theorem State.push_i (w : Word) : (s.push w).i = s.i := rfl
@[simp] theorem State.push_pc (w : Word) : (s.push w).pc = s.pc := rfl
@[simp] theorem State.push_stack (w : Word) : (s.push w).stack = w :: s.stack := rfl
@[simp] theorem State.push_dt (w : Word) : (s.push w).dt = s.dt := rfl
@[simp] theorem State.push_st (w : Word) : (s.push w).st = s.st := rfl
@[simp] theorem State.push_keys (w : Word) : (s.push w).keys = s.keys := rfl
@[simp] theorem State.push_disp (w : Word) : (s.push w).disp = s.disp := rfl
@[simp] theorem State.push_mem (w : Word) : (s.push w).mem = s.mem := rfl
@[simp] theorem State.push_rng (w : Word) : (s.push w).rng = s.rng := rfl
@[simp] theorem State.push_params (w : Word) : (s.push w).params = s.params := rfl

@[simp] theorem State.setStack_v (ws : List Word) : (s.setStack ws).v = s.v := rfl
@[simp] theorem State.setStack_i (ws : List Word) : (s.setStack ws).i = s.i := rfl
@[simp] theorem State.setStack_pc (ws : List Word) : (s.setStack ws).pc = s.pc := rfl
@[simp] theorem State.setStack_stack (ws : List Word) : (s.setStack ws).stack = ws := rfl
@[simp] theorem State.setStack_dt (ws : List Word) : (s.setStack ws).dt = s.dt := rfl
@[simp] theorem State.setStack_st (ws : List Word) : (s.setStack ws).st = s.st := rfl
@[simp] theorem State.setStack_keys (ws : List Word) : (s.setStack ws).keys = s.keys := rfl
@[simp] theorem State.setStack_disp (ws : List Word) : (s.setStack ws).disp = s.disp := rfl
@[simp] theorem State.setStack_mem (ws : List Word) : (s.setStack ws).mem = s.mem := rfl
@[simp] theorem State.setStack_rng (ws : List Word) : (s.setStack ws).rng = s.rng := rfl
@[simp] theorem State.setStack_params (ws : List Word) : (s.setStack ws).params = s.params := rfl

@[simp] theorem State.setDt_v (b : Byte) : (s.setDt b).v = s.v := rfl
@[simp] theorem State.setDt_i (b : Byte) : (s.setDt b).i = s.i := rfl
@[simp] theorem State.setDt_pc (b : Byte) : (s.setDt b).pc = s.pc := rfl
@[simp] theorem State.setDt_stack (b : Byte) : (s.setDt b).stack = s.stack := rfl
@[simp] theorem State.setDt_dt (b : Byte) : (s.setDt b).dt = b := rfl
@[simp] theorem State.setDt_st (b : Byte) : (s.setDt b).st = s.st := rfl
@[simp] theorem State.setDt_keys (b : Byte) : (s.setDt b).keys = s.keys := rfl
@[simp] theorem State.setDt_disp (b : Byte) : (s.setDt b).disp = s.disp := rfl
@[simp] theorem State.setDt_mem (b : Byte) : (s.setDt b).mem = s.mem := rfl
@[simp] theorem State.setDt_rng (b : Byte) : (s.setDt b).rng = s.rng := rfl
@[simp] theorem State.setDt_params (b : Byte) : (s.setDt b).params = s.params := rfl

@[simp] theorem State.setSt_v (b : Byte) : (s.setSt b).v = s.v := rfl
@[simp] theorem State.setSt_i (b : Byte) : (s.setSt b).i = s.i := rfl
@[simp] theorem State.setSt_pc (b : Byte) : (s.setSt b).pc = s.pc := rfl
@[simp] theorem State.setSt_stack (b : Byte) : (s.setSt b).stack = s.stack := rfl
@[simp] theorem State.setSt_dt (b : Byte) : (s.setSt b).dt = s.dt := rfl
@[simp] theorem State.setSt_st (b : Byte) : (s.setSt b).st = b := rfl
@[simp] theorem State.setSt_keys (b : Byte) : (s.setSt b).keys = s.keys := rfl
@[simp] theorem State.setSt_disp (b : Byte) : (s.setSt b).disp = s.disp := rfl
@[simp] theorem State.setSt_mem (b : Byte) : (s.setSt b).mem = s.mem := rfl
@[simp] theorem State.setSt_rng (b : Byte) : (s.setSt b).rng = s.rng := rfl
@[simp] theorem State.setSt_params (b : Byte) : (s.setSt b).params = s.params := rfl

@[simp] theorem State.setDisp_v (d : Display) : (s.setDisp d).v = s.v := rfl
@[simp] theorem State.setDisp_i (d : Display) : (s.setDisp d).i = s.i := rfl
@[simp] theorem State.setDisp_pc (d : Display) : (s.setDisp d).pc = s.pc := rfl
@[simp] theorem State.setDisp_stack (d : Display) : (s.setDisp d).stack = s.stack := rfl
@[simp] theorem State.setDisp_dt (d : Display) : (s.setDisp d).dt = s.dt := rfl
@[simp] theorem State.setDisp_st (d : Display) : (s.setDisp d).st = s.st := rfl
@[simp] theorem State.setDisp_keys (d : Display) : (s.setDisp d).keys = s.keys := rfl
@[simp] theorem State.setDisp_disp (d : Display) : (s.setDisp d).disp = d := rfl
@[simp] theorem State.setDisp_mem (d : Display) : (s.setDisp d).mem = s.mem := rfl
@[simp] theorem State.setDisp_rng (d : Display) : (s.setDisp d).rng = s.rng := rfl
@[simp] theorem State.setDisp_params (d : Display) : (s.setDisp d).params = s.params := rfl

@[simp] theorem State.drawn_v : s.drawn.v = s.v := rfl
@[simp] theorem State.drawn_i : s.drawn.i = s.i := rfl
@[simp] theorem State.drawn_pc : s.drawn.pc = s.pc := rfl
@[simp] theorem State.drawn_stack : s.drawn.stack = s.stack := rfl
@[simp] theorem State.drawn_dt : s.drawn.dt = s.dt := rfl
@[simp] theorem State.drawn_st : s.drawn.st = s.st := rfl
@[simp] theorem State.drawn_keys : s.drawn.keys = s.keys := rfl
@[simp] theorem State.drawn_disp : s.drawn.disp = s.disp := rfl
@[simp] theorem State.drawn_mem : s.drawn.mem = s.mem := rfl
@[simp] theorem State.drawn_rng : s.drawn.rng = { s.rng with draws := s.rng.draws + 1 } := rfl
@[simp] theorem State.drawn_params : s.drawn.params = s.params := rfl

@[simp] theorem State.setI_v (w : Word) : (s.setI w).v = s.v := rfl
@[simp] theorem State.setI_i (w : Word) : (s.setI w).i = w := rfl
@[simp] theorem State.setI_pc (w : Word) : (s.setI w).pc = s.pc := rfl
@[simp] theorem State.setI_stack (w : Word) : (s.setI w).stack = s.stack := rfl
@[simp] theorem State.setI_dt (w : Word) : (s.setI w).dt = s.dt := rfl
@[simp] theorem State.setI_st (w : Word) : (s.setI w).st = s.st := rfl
@[simp] theorem State.setI_keys (w : Word) : (s.setI w).keys = s.keys := rfl
@[simp] theorem State.setI_disp (w : Word) : (s.setI w).disp = s.disp := rfl
@[simp] theorem State.setI_mem (w : Word) : (s.setI w).mem = s.mem := rfl
@[simp] theorem State.setI_rng (w : Word) : (s.setI w).rng = s.rng := rfl
@[simp] theorem State.setI_params (w : Word) : (s.setI w).params = s.params := rfl

@[simp] theorem State.stepI_v (x : Reg) : (s.stepI x).v = s.v := rfl
@[simp] theorem State.stepI_i (x : Reg) : (s.stepI x).i = s.i + BitVec.ofNat 16 (x.val + 1) := rfl
@[simp] theorem State.stepI_pc (x : Reg) : (s.stepI x).pc = s.pc := rfl
@[simp] theorem State.stepI_stack (x : Reg) : (s.stepI x).stack = s.stack := rfl
@[simp] theorem State.stepI_dt (x : Reg) : (s.stepI x).dt = s.dt := rfl
@[simp] theorem State.stepI_st (x : Reg) : (s.stepI x).st = s.st := rfl
@[simp] theorem State.stepI_keys (x : Reg) : (s.stepI x).keys = s.keys := rfl
@[simp] theorem State.stepI_disp (x : Reg) : (s.stepI x).disp = s.disp := rfl
@[simp] theorem State.stepI_mem (x : Reg) : (s.stepI x).mem = s.mem := rfl
@[simp] theorem State.stepI_rng (x : Reg) : (s.stepI x).rng = s.rng := rfl
@[simp] theorem State.stepI_params (x : Reg) : (s.stepI x).params = s.params := rfl

@[simp] theorem State.storeI_v (bs : List Byte) : (s.storeI bs).v = s.v := rfl
@[simp] theorem State.storeI_i (bs : List Byte) : (s.storeI bs).i = s.i := rfl
@[simp] theorem State.storeI_pc (bs : List Byte) : (s.storeI bs).pc = s.pc := rfl
@[simp] theorem State.storeI_stack (bs : List Byte) : (s.storeI bs).stack = s.stack := rfl
@[simp] theorem State.storeI_dt (bs : List Byte) : (s.storeI bs).dt = s.dt := rfl
@[simp] theorem State.storeI_st (bs : List Byte) : (s.storeI bs).st = s.st := rfl
@[simp] theorem State.storeI_keys (bs : List Byte) : (s.storeI bs).keys = s.keys := rfl
@[simp] theorem State.storeI_disp (bs : List Byte) : (s.storeI bs).disp = s.disp := rfl
@[simp] theorem State.storeI_mem (bs : List Byte) : (s.storeI bs).mem = s.mem.storeI s.i 0 bs := rfl
@[simp] theorem State.storeI_rng (bs : List Byte) : (s.storeI bs).rng = s.rng := rfl
@[simp] theorem State.storeI_params (bs : List Byte) : (s.storeI bs).params = s.params := rfl

@[simp] theorem State.loadRegsUpTo_i (x : Reg) : (s.loadRegsUpTo x).i = s.i := rfl
@[simp] theorem State.loadRegsUpTo_pc (x : Reg) : (s.loadRegsUpTo x).pc = s.pc := rfl
@[simp] theorem State.loadRegsUpTo_stack (x : Reg) : (s.loadRegsUpTo x).stack = s.stack := rfl
@[simp] theorem State.loadRegsUpTo_dt (x : Reg) : (s.loadRegsUpTo x).dt = s.dt := rfl
@[simp] theorem State.loadRegsUpTo_st (x : Reg) : (s.loadRegsUpTo x).st = s.st := rfl
@[simp] theorem State.loadRegsUpTo_keys (x : Reg) : (s.loadRegsUpTo x).keys = s.keys := rfl
@[simp] theorem State.loadRegsUpTo_disp (x : Reg) : (s.loadRegsUpTo x).disp = s.disp := rfl
@[simp] theorem State.loadRegsUpTo_mem (x : Reg) : (s.loadRegsUpTo x).mem = s.mem := rfl
@[simp] theorem State.loadRegsUpTo_rng (x : Reg) : (s.loadRegsUpTo x).rng = s.rng := rfl
@[simp] theorem State.loadRegsUpTo_params (x : Reg) : (s.loadRegsUpTo x).params = s.params := rfl

@[simp] theorem State.tick_v : s.tick.v = s.v := rfl
@[simp] theorem State.tick_i : s.tick.i = s.i := rfl
@[simp] theorem State.tick_pc : s.tick.pc = s.pc := rfl
@[simp] theorem State.tick_stack : s.tick.stack = s.stack := rfl
@[simp] theorem State.tick_dt : s.tick.dt = tickTimer s.dt := rfl
@[simp] theorem State.tick_st : s.tick.st = tickTimer s.st := rfl
@[simp] theorem State.tick_keys : s.tick.keys = s.keys := rfl
@[simp] theorem State.tick_disp : s.tick.disp = s.disp := rfl
@[simp] theorem State.tick_mem : s.tick.mem = s.mem := rfl
@[simp] theorem State.tick_rng : s.tick.rng = s.rng := rfl
@[simp] theorem State.tick_params : s.tick.params = s.params := rfl

@[simp] theorem State.keyWrite_v (k : BitVec 16) : (s.keyWrite k).v = s.v := rfl
@[simp] theorem State.keyWrite_i (k : BitVec 16) : (s.keyWrite k).i = s.i := rfl
@[simp] theorem State.keyWrite_pc (k : BitVec 16) : (s.keyWrite k).pc = s.pc := rfl
@[simp] theorem State.keyWrite_stack (k : BitVec 16) : (s.keyWrite k).stack = s.stack := rfl
@[simp] theorem State.keyWrite_dt (k : BitVec 16) : (s.keyWrite k).dt = s.dt := rfl
@[simp] theorem State.keyWrite_st (k : BitVec 16) : (s.keyWrite k).st = s.st := rfl
@[simp] theorem State.keyWrite_keys (k : BitVec 16) : (s.keyWrite k).keys = k := rfl
@[simp] theorem State.keyWrite_disp (k : BitVec 16) : (s.keyWrite k).disp = s.disp := rfl
@[simp] theorem State.keyWrite_mem (k : BitVec 16) : (s.keyWrite k).mem = s.mem := rfl
@[simp] theorem State.keyWrite_rng (k : BitVec 16) : (s.keyWrite k).rng = s.rng := rfl
@[simp] theorem State.keyWrite_params (k : BitVec 16) : (s.keyWrite k).params = s.params := rfl

@[simp] theorem State.skipIf_v (c : Bool) : (s.skipIf c).v = s.v := by cases c <;> rfl
@[simp] theorem State.skipIf_i (c : Bool) : (s.skipIf c).i = s.i := by cases c <;> rfl
@[simp] theorem State.skipIf_pc (c : Bool) : (s.skipIf c).pc = if c then s.pc + 2 else s.pc := by cases c <;> rfl
@[simp] theorem State.skipIf_stack (c : Bool) : (s.skipIf c).stack = s.stack := by cases c <;> rfl
@[simp] theorem State.skipIf_dt (c : Bool) : (s.skipIf c).dt = s.dt := by cases c <;> rfl
@[simp] theorem State.skipIf_st (c : Bool) : (s.skipIf c).st = s.st := by cases c <;> rfl
@[simp] theorem State.skipIf_keys (c : Bool) : (s.skipIf c).keys = s.keys := by cases c <;> rfl
@[simp] theorem State.skipIf_disp (c : Bool) : (s.skipIf c).disp = s.disp := by cases c <;> rfl
@[simp] theorem State.skipIf_mem (c : Bool) : (s.skipIf c).mem = s.mem := by cases c <;> rfl
@[simp] theorem State.skipIf_rng (c : Bool) : (s.skipIf c).rng = s.rng := by cases c <;> rfl
@[simp] theorem State.skipIf_params (c : Bool) : (s.skipIf c).params = s.params := by cases c <;> rfl

/-! ### Reading registers after an update -/

theorem State.getV_congr {s t : State} (h : t.v = s.v) (r : Reg) : t.getV r = s.getV r := by
  simp [State.getV, h]

/-- A write to a register is read back from it and from no other. -/
theorem State.getV_setV (x r : Reg) (b : Byte) : (s.setV x b).getV r = if r = x then b else s.getV r := by
  unfold State.getV State.setV
  by_cases h : r = x
  · subst h; simp
  · have hne : x.val ≠ r.val := fun hv => h (Fin.ext hv.symm)
    simp [h, hne]

@[simp] theorem State.getV_setV_same (x : Reg) (b : Byte) : (s.setV x b).getV x = b := by
  simp [State.getV_setV]

theorem State.getV_setV_other {x r : Reg} (h : r ≠ x) (b : Byte) : (s.setV x b).getV r = s.getV r := by
  simp [State.getV_setV, h]

/-- R24: the destination holds the result, VF otherwise the flag, every other register what it held. -/
theorem State.getV_writeFlagThenResult (x r : Reg) (f b : Byte) :
    (s.writeFlagThenResult x f b).getV r = if r = x then b else if r = flagReg then f else s.getV r := by
  simp [State.writeFlagThenResult, State.getV_setV]

/-- FX65 replaces V[0] to V[X] by the bytes at ea(0) to ea(X) and keeps the rest (R145). -/
theorem State.getV_loadRegsUpTo (x r : Reg) :
    (s.loadRegsUpTo x).getV r = if r ≤ x then s.readI r.val else s.getV r := by
  simp [State.loadRegsUpTo, State.getV]

@[simp] theorem State.getV_advance (r : Reg) : s.advance.getV r = s.getV r := rfl
@[simp] theorem State.getV_jump (w : Word) (r : Reg) : (s.jump w).getV r = s.getV r := rfl
@[simp] theorem State.getV_push (w : Word) (r : Reg) : (s.push w).getV r = s.getV r := rfl
@[simp] theorem State.getV_setStack (ws : List Word) (r : Reg) : (s.setStack ws).getV r = s.getV r := rfl
@[simp] theorem State.getV_setDt (b : Byte) (r : Reg) : (s.setDt b).getV r = s.getV r := rfl
@[simp] theorem State.getV_setSt (b : Byte) (r : Reg) : (s.setSt b).getV r = s.getV r := rfl
@[simp] theorem State.getV_setDisp (d : Display) (r : Reg) : (s.setDisp d).getV r = s.getV r := rfl
@[simp] theorem State.getV_drawn (r : Reg) : s.drawn.getV r = s.getV r := rfl
@[simp] theorem State.getV_setI (w : Word) (r : Reg) : (s.setI w).getV r = s.getV r := rfl
@[simp] theorem State.getV_stepI (x : Reg) (r : Reg) : (s.stepI x).getV r = s.getV r := rfl
@[simp] theorem State.getV_storeI (bs : List Byte) (r : Reg) : (s.storeI bs).getV r = s.getV r := rfl
@[simp] theorem State.getV_tick (r : Reg) : s.tick.getV r = s.getV r := rfl
@[simp] theorem State.getV_keyWrite (k : BitVec 16) (r : Reg) : (s.keyWrite k).getV r = s.getV r := rfl
@[simp] theorem State.getV_skipIf (c : Bool) (r : Reg) : (s.skipIf c).getV r = s.getV r := by cases c <;> rfl

/-! ### Reading memory after an update that stores nothing -/

@[simp] theorem State.readByte_setV (r : Reg) (b : Byte) (a : Nat) : (s.setV r b).readByte a = s.readByte a := rfl
@[simp] theorem State.readByte_writeFlagThenResult (x : Reg) (f b : Byte) (a : Nat) : (s.writeFlagThenResult x f b).readByte a = s.readByte a := rfl
@[simp] theorem State.readByte_advance (a : Nat) : s.advance.readByte a = s.readByte a := rfl
@[simp] theorem State.readByte_jump (w : Word) (a : Nat) : (s.jump w).readByte a = s.readByte a := rfl
@[simp] theorem State.readByte_push (w : Word) (a : Nat) : (s.push w).readByte a = s.readByte a := rfl
@[simp] theorem State.readByte_setStack (ws : List Word) (a : Nat) : (s.setStack ws).readByte a = s.readByte a := rfl
@[simp] theorem State.readByte_setDt (b : Byte) (a : Nat) : (s.setDt b).readByte a = s.readByte a := rfl
@[simp] theorem State.readByte_setSt (b : Byte) (a : Nat) : (s.setSt b).readByte a = s.readByte a := rfl
@[simp] theorem State.readByte_setDisp (d : Display) (a : Nat) : (s.setDisp d).readByte a = s.readByte a := rfl
@[simp] theorem State.readByte_drawn (a : Nat) : s.drawn.readByte a = s.readByte a := rfl
@[simp] theorem State.readByte_setI (w : Word) (a : Nat) : (s.setI w).readByte a = s.readByte a := rfl
@[simp] theorem State.readByte_stepI (x : Reg) (a : Nat) : (s.stepI x).readByte a = s.readByte a := rfl
@[simp] theorem State.readByte_loadRegsUpTo (x : Reg) (a : Nat) : (s.loadRegsUpTo x).readByte a = s.readByte a := rfl
@[simp] theorem State.readByte_tick (a : Nat) : s.tick.readByte a = s.readByte a := rfl
@[simp] theorem State.readByte_keyWrite (k : BitVec 16) (a : Nat) : (s.keyWrite k).readByte a = s.readByte a := rfl
@[simp] theorem State.readByte_skipIf (c : Bool) (a : Nat) : (s.skipIf c).readByte a = s.readByte a := by
  cases c <;> rfl

end Sys2Proof.Machine
end

