-- ==== Sys2Proof/Laws/Display.lean ====
section
/-!
SUPPORT. Cells of the display after a flip and after one pixel, row or sprite of the drawing loop (R151).
-/

namespace Sys2Proof.Machine

/-- A flip changes the one cell it names (R151). -/
theorem Display.cell_flip (d : Display) (x x' : Fin 64) (y y' : Fin 32) :
    (d.flip x y).cell x' y' = if x' = x ∧ y' = y then !d.cell x' y' else d.cell x' y' := by
  unfold Display.flip Display.cell
  by_cases hy : y' = y
  · subst hy
    by_cases hx : x' = x
    · subst hx
      simp [BitVec.getElem_xor, BitVec.getElem_twoPow]
    · have : x.val ≠ x'.val := fun h => hx (Fin.ext h.symm)
      simp [hx, BitVec.getElem_xor, BitVec.getElem_twoPow, Ne.symm this]
  · have : y.val ≠ y'.val := fun h => hy (Fin.ext h.symm)
    simp [hy, this]

@[simp] theorem Display.cell_clear (x : Fin 64) (y : Fin 32) : Display.clear.cell x y = false := by
  simp [Display.clear, Display.cell]

/-- Displays with the same cells are equal. -/
theorem Display.ext_cell {d e : Display} (h : ∀ x y, Display.cell d x y = Display.cell e x y) : d = e := by
  apply Vector.ext
  intro y hy
  apply BitVec.eq_of_getLsbD_eq
  intro x hx
  exact h ⟨x, hx⟩ ⟨y, hy⟩

/-- Everything one pixel can do: nothing for a sprite bit 0; for a bit 1 the flip, and a collision if the cell was 1. -/
theorem drawPixel_eq (byte : Byte) (vx vy r : Nat) (acc : Display × Bool) (c : Nat) :
    drawPixel byte vx vy r acc c =
      if byte.getLsbD (7 - c) then
        (acc.1.flip (Fin.ofNat 64 (vx + c)) (Fin.ofNat 32 (vy + r)),
         acc.2 || acc.1.cell (Fin.ofNat 64 (vx + c)) (Fin.ofNat 32 (vy + r)))
      else acc := rfl

theorem drawSprite_zero (rowByte : Nat → Byte) (vx vy : Nat) (d : Display) :
    drawSprite rowByte vx vy 0 d = (d, false) := rfl

/-- The last row is drawn over the others. -/
theorem drawSprite_succ (rowByte : Nat → Byte) (vx vy n : Nat) (d : Display) :
    drawSprite rowByte vx vy (n + 1) d = drawRow (rowByte n) vx vy (drawSprite rowByte vx vy n d) n := by
  simp [drawSprite, List.range_succ]

/-- The flat order of R32: DISP[64*y + x] is the cell of column x, row y. -/
theorem Display.flat_eq (d : Display) (x : Fin 64) (y : Fin 32) (i : Fin 2048) (h : i.val = 64 * y.val + x.val) :
    d.flat i = d.cell x y := by
  unfold Display.flat
  have hx : Fin.ofNat 64 (i.val % 64) = x := by ext; simp; omega
  have hy : Fin.ofNat 32 (i.val / 64) = y := by ext; simp; omega
  rw [hx, hy]

end Sys2Proof.Machine
end

