-- ==== Sys2Proof/Laws/Encoding.lean ====
section
/-!
SUPPORT. The fields of a word put together from fields, and a word put together from its own fields (R80, R81).
-/

namespace Sys2Proof

@[simp] theorem regBits_toFin (r : Reg) : (regBits r).toFin = r := rfl

@[simp] theorem regBits_toFin' (x : BitVec 4) : regBits x.toFin = x := rfl

section formatA
variable (f : BitVec 4) (nnn : Addr)

@[simp] theorem family_formatA : family (formatA f nnn) = f := by
  unfold family formatA
  rw [BitVec.extractLsb'_append_eq_of_le (by decide)]; simp

@[simp] theorem fieldNNN_formatA : fieldNNN (formatA f nnn) = nnn := by
  unfold fieldNNN formatA
  rw [BitVec.extractLsb'_append_eq_of_add_le (by decide)]; simp

end formatA

section formatXI
variable (f : BitVec 4) (x : Reg) (nn : Byte)

@[simp] theorem family_formatXI : family (formatXI f x nn) = f := by
  unfold family formatXI
  rw [BitVec.extractLsb'_append_eq_of_le (by decide), BitVec.extractLsb'_append_eq_of_le (by decide)]; simp

@[simp] theorem fieldX_formatXI : fieldX (formatXI f x nn) = x := by
  unfold fieldX formatXI
  rw [BitVec.extractLsb'_append_eq_of_le (by decide), BitVec.extractLsb'_append_eq_of_add_le (by decide)]; simp

@[simp] theorem fieldNN_formatXI : fieldNN (formatXI f x nn) = nn := by
  unfold fieldNN formatXI
  rw [BitVec.extractLsb'_append_eq_of_add_le (by decide)]; simp

end formatXI

section formatXYN
variable (f : BitVec 4) (x y : Reg) (n : BitVec 4)

@[simp] theorem family_formatXYN : family (formatXYN f x y n) = f := by
  unfold family formatXYN
  rw [BitVec.extractLsb'_append_eq_of_le (by decide), BitVec.extractLsb'_append_eq_of_le (by decide),
    BitVec.extractLsb'_append_eq_of_le (by decide)]; simp

@[simp] theorem fieldX_formatXYN : fieldX (formatXYN f x y n) = x := by
  unfold fieldX formatXYN
  rw [BitVec.extractLsb'_append_eq_of_le (by decide), BitVec.extractLsb'_append_eq_of_le (by decide),
    BitVec.extractLsb'_append_eq_of_add_le (by decide)]; simp

@[simp] theorem fieldY_formatXYN : fieldY (formatXYN f x y n) = y := by
  unfold fieldY formatXYN
  rw [BitVec.extractLsb'_append_eq_of_le (by decide), BitVec.extractLsb'_append_eq_of_add_le (by decide)]; simp

@[simp] theorem fieldN_formatXYN : fieldN (formatXYN f x y n) = n := by
  unfold fieldN formatXYN
  rw [BitVec.extractLsb'_append_eq_of_add_le (by decide)]; simp

end formatXYN

section formatXS
variable (f : BitVec 4) (x : Reg) (sel : Byte)

@[simp] theorem family_formatXS : family (formatXS f x sel) = f := family_formatXI f x sel

@[simp] theorem fieldX_formatXS : fieldX (formatXS f x sel) = x := fieldX_formatXI f x sel

@[simp] theorem fieldNN_formatXS : fieldNN (formatXS f x sel) = sel := fieldNN_formatXI f x sel

end formatXS

/-- A 4-bit field has one of sixteen values: the cases of `family` and `fieldN`. -/
theorem nibble_cases : ∀ n : BitVec 4, n = 0x0#4 ∨ n = 0x1#4 ∨ n = 0x2#4 ∨ n = 0x3#4 ∨ n = 0x4#4 ∨ n = 0x5#4 ∨
    n = 0x6#4 ∨ n = 0x7#4 ∨ n = 0x8#4 ∨ n = 0x9#4 ∨ n = 0xA#4 ∨ n = 0xB#4 ∨ n = 0xC#4 ∨ n = 0xD#4 ∨ n = 0xE#4 ∨
    n = 0xF#4 := by decide

/-- N is the low nibble of NN. -/
theorem fieldN_eq (w : Word) : fieldN w = (fieldNN w).extractLsb' 0 4 := by
  apply BitVec.eq_of_getLsbD_eq
  intro i hi
  simp [fieldN, fieldNN, BitVec.getLsbD_extractLsb']

/-! ### A word from its own fields -/

theorem word_of_parts (w : Word) (k : Nat) (h : k ≤ 16) :
    w = ((w.extractLsb' k (16 - k) ++ w.extractLsb' 0 k).cast (by omega)) := by
  apply BitVec.eq_of_getLsbD_eq
  intro i hi
  simp only [BitVec.getLsbD_cast, BitVec.getLsbD_append, BitVec.getLsbD_extractLsb']
  by_cases hk : i < k
  · simp [hk]
  · simp [hk, show i - k < 16 - k by omega, show k + (i - k) = i by omega]

theorem formatA_fields (w : Word) : formatA (family w) (fieldNNN w) = w := by
  have := (word_of_parts w 12 (by decide)).symm
  simpa [formatA, family, fieldNNN] using this

theorem joinBytes_bytes (w : Word) : joinBytes (highByte w) (lowByte w) = w := by
  have := (word_of_parts w 8 (by decide)).symm
  simpa [joinBytes, highByte, lowByte] using this

/-- The byte at the lower address is the word's high byte (R53). -/
@[simp] theorem highByte_joinBytes (hi lo : Byte) : highByte (joinBytes hi lo) = hi := by
  unfold highByte joinBytes
  rw [BitVec.extractLsb'_append_eq_of_le (by decide)]; simp

/-- The byte at the higher address is the word's low byte (R53). -/
@[simp] theorem lowByte_joinBytes (hi lo : Byte) : lowByte (joinBytes hi lo) = lo := by
  unfold lowByte joinBytes
  rw [BitVec.extractLsb'_append_eq_of_add_le (by decide)]; simp

theorem formatXYN_fields (w : Word) : formatXYN (family w) (fieldX w) (fieldY w) (fieldN w) = w := by
  apply BitVec.eq_of_getLsbD_eq
  intro i hi
  simp only [formatXYN, family, fieldX, fieldY, fieldN, regBits_toFin', BitVec.getLsbD_append,
    BitVec.getLsbD_extractLsb']
  interval_cases i <;> simp

theorem formatXI_fields (w : Word) : formatXI (family w) (fieldX w) (fieldNN w) = w := by
  apply BitVec.eq_of_getLsbD_eq
  intro i hi
  simp only [formatXI, family, fieldX, fieldNN, regBits_toFin', BitVec.getLsbD_append, BitVec.getLsbD_extractLsb']
  interval_cases i <;> simp

theorem formatXS_fields (w : Word) : formatXS (family w) (fieldX w) (fieldNN w) = w := formatXI_fields w

/-- Every word is its two bytes, the high one first, as a number (R53). -/
theorem joinBytes_toNat (hi lo : Byte) : (joinBytes hi lo).toNat = 256 * hi.toNat + lo.toNat := by
  unfold joinBytes
  rw [BitVec.toNat_append, Nat.shiftLeft_eq, ← Nat.shiftLeft_eq, ← Nat.shiftLeft_add_eq_or_of_lt lo.isLt,
    Nat.shiftLeft_eq]
  omega

/-- The decoder on the two bytes of a word is the decoder on the word. -/
theorem decode_wordBytes (w : Word) (rest : List Byte) :
    decode (wordBytes w ++ rest) =
      match decodeWord w with
      | .ok i => .ok (i, rest)
      | .error e => .error e := by
  cases h : decodeWord w <;> simp only [wordBytes, List.cons_append, List.nil_append, decode, joinBytes_bytes, h]

end Sys2Proof
end

