-- ==== Sys2Proof/Laws/Memory.lean ====
section
/-!
SUPPORT. The laws of memory: a read after a write, the canonical form is kept, and equal contents of canonical
memories are equal data.
-/

namespace Sys2Proof.Machine

@[simp] theorem Memory.read_nil (a : Nat) : Memory.read [] a = 0 := rfl

theorem Memory.read_cons (a' : Nat) (b' : Byte) (m : Memory) (a : Nat) :
    Memory.read ((a', b') :: m) a = if a = a' then b' else Memory.read m a := rfl

theorem Memory.read_erase (m : Memory) (a c : Nat) :
    (m.erase a).read c = if c = a then 0 else m.read c := by
  induction m with
  | nil => simp [Memory.erase]
  | cons p m ih =>
    obtain ⟨a', b'⟩ := p
    by_cases h : a' = a
    · subst h
      have : Memory.erase ((a', b') :: m) a' = Memory.erase m a' := by simp [Memory.erase]
      rw [this, ih, Memory.read_cons]
      by_cases hc : c = a' <;> simp [hc]
    · have : Memory.erase ((a', b') :: m) a = (a', b') :: Memory.erase m a := by simp [Memory.erase, h]
      rw [this, Memory.read_cons, Memory.read_cons, ih]
      by_cases hc : c = a'
      · subst hc; simp [h]
      · simp [hc]

theorem Memory.read_insert (m : Memory) (a : Nat) (b : Byte) (c : Nat) (hm : m.read a = 0 ∧ ∀ p ∈ m, p.1 ≠ a) :
    (Memory.insert a b m).read c = if c = a then b else m.read c := by
  induction m with
  | nil => simp [Memory.insert, Memory.read_cons]
  | cons p m ih =>
    obtain ⟨a', b'⟩ := p
    have hne : a' ≠ a := hm.2 (a', b') (by simp)
    by_cases h : a < a'
    · simp [Memory.insert, h, Memory.read_cons]
    · have hm' : Memory.read m a = 0 ∧ ∀ p ∈ m, p.1 ≠ a := by
        refine ⟨?_, fun p hp => hm.2 p (by simp [hp])⟩
        have := hm.1
        rwa [Memory.read_cons, if_neg (Ne.symm hne)] at this
      simp only [Memory.insert, h, if_false, Memory.read_cons, ih hm']
      by_cases hc : c = a'
      · subst hc; simp [hne]
      · simp [hc]

theorem Memory.mem_erase_ne (m : Memory) (a : Nat) : ∀ p ∈ m.erase a, p.1 ≠ a := by
  intro p hp
  simpa [Memory.erase] using (List.mem_filter.mp hp).2

/-- Reading after a write gives the byte at the address written and the old byte at every other (R59). -/
theorem Memory.read_write (m : Memory) (a : Nat) (b : Byte) (c : Nat) :
    (m.write a b).read c = if c = a then b else m.read c := by
  unfold Memory.write
  split
  · next h => rw [Memory.read_erase, h]
  · rw [Memory.read_insert _ _ _ _ ⟨by simp [Memory.read_erase], Memory.mem_erase_ne m a⟩, Memory.read_erase]
    by_cases hc : c = a <;> simp [hc]

@[simp] theorem Memory.read_write_same (m : Memory) (a : Nat) (b : Byte) : (m.write a b).read a = b := by
  simp [Memory.read_write]

theorem Memory.read_write_other {a c : Nat} (h : c ≠ a) (m : Memory) (b : Byte) :
    (m.write a b).read c = m.read c := by
  simp [Memory.read_write, h]

/-! ### The canonical form -/

theorem Memory.wfFrom_cons (lo a : Nat) (b : Byte) (m : Memory) :
    Memory.wfFrom lo ((a, b) :: m) = true ↔ lo ≤ a ∧ a < Config.memSize ∧ b ≠ 0 ∧ Memory.wfFrom (a + 1) m = true := by
  simp [Memory.wfFrom, and_assoc]

theorem Memory.wfFrom_mono {lo lo' : Nat} (h : lo' ≤ lo) : ∀ {m : Memory}, Memory.wfFrom lo m = true →
    Memory.wfFrom lo' m = true
  | [], _ => rfl
  | (a, b) :: m, hm => by
    rw [Memory.wfFrom_cons] at hm ⊢
    exact ⟨h.trans hm.1, hm.2⟩

theorem Memory.wfFrom_erase (a : Nat) : ∀ {m : Memory} {lo : Nat}, Memory.wfFrom lo m = true →
    Memory.wfFrom lo (m.erase a) = true
  | [], _, _ => rfl
  | (a', b') :: m, lo, hm => by
    rw [Memory.wfFrom_cons] at hm
    have ih := Memory.wfFrom_erase a hm.2.2.2
    by_cases h : a' = a
    · have : Memory.erase ((a', b') :: m) a = Memory.erase m a := by simp [Memory.erase, h]
      rw [this]
      exact Memory.wfFrom_mono (by omega) ih
    · have : Memory.erase ((a', b') :: m) a = (a', b') :: Memory.erase m a := by simp [Memory.erase, h]
      rw [this, Memory.wfFrom_cons]
      exact ⟨hm.1, hm.2.1, hm.2.2.1, ih⟩

theorem Memory.wfFrom_insert {a : Nat} {b : Byte} (ha : a < Config.memSize) (hb : b ≠ 0) :
    ∀ {m : Memory} {lo : Nat}, lo ≤ a → Memory.wfFrom lo m = true → (∀ p ∈ m, p.1 ≠ a) →
      Memory.wfFrom lo (Memory.insert a b m) = true
  | [], lo, hlo, _, _ => (Memory.wfFrom_cons lo a b []).mpr ⟨hlo, ha, hb, rfl⟩
  | (a', b') :: m, lo, hlo, hm, hne => by
    have hm' := (Memory.wfFrom_cons lo a' b' m).mp hm
    by_cases h : a < a'
    · simp only [Memory.insert, h, if_true, Memory.wfFrom_cons]
      exact ⟨hlo, ha, hb, by omega, hm'.2⟩
    · have h' : a' ≠ a := hne (a', b') (by simp)
      simp only [Memory.insert, h, if_false, Memory.wfFrom_cons]
      exact ⟨hm'.1, hm'.2.1, hm'.2.2.1,
        Memory.wfFrom_insert ha hb (by omega) hm'.2.2.2 fun p hp => hne p (by simp [hp])⟩

/-- A write to a cell of memory keeps the canonical form. -/
theorem Memory.wf_write {m : Memory} {a : Nat} (b : Byte) (ha : a < Config.memSize) (hm : m.wf = true) :
    (m.write a b).wf = true := by
  unfold Memory.write
  split
  · exact Memory.wfFrom_erase a hm
  · next hb => exact Memory.wfFrom_insert ha hb (Nat.zero_le a) (Memory.wfFrom_erase a hm) (Memory.mem_erase_ne m a)

theorem Memory.wf_load {bs : List Byte} : ∀ {m : Memory} {a : Nat}, a + bs.length ≤ Config.memSize → m.wf = true →
    (m.load a bs).wf = true := by
  induction bs with
  | nil => intro m a _ hm; exact hm
  | cons b bs ih =>
    intro m a ha hm
    simp only [List.length_cons] at ha
    exact ih (by omega) (Memory.wf_write b (by omega) hm)

theorem ea_lt (i : Word) (k : Nat) : ea i k < Config.memSize := Nat.mod_lt _ (by decide)

theorem Memory.wf_storeI (i : Word) {bs : List Byte} : ∀ {m : Memory} {k : Nat}, m.wf = true →
    (m.storeI i k bs).wf = true := by
  induction bs with
  | nil => intro m k hm; exact hm
  | cons b bs ih => intro m k hm; exact ih (Memory.wf_write b (ea_lt i k) hm)

@[simp] theorem Memory.wf_nil : Memory.wf [] = true := rfl

theorem State.reset_mem_wf : State.reset.mem.wf = true := rfl

theorem Memory.read_lt_of_wfFrom {m : Memory} {lo a : Nat} (hm : Memory.wfFrom lo m = true) (ha : a < lo) :
    m.read a = 0 := by
  induction m generalizing lo with
  | nil => rfl
  | cons p m ih =>
    obtain ⟨a', b'⟩ := p
    rw [Memory.wfFrom_cons] at hm
    rw [Memory.read_cons, if_neg (by omega)]
    exact ih hm.2.2.2 (by omega)

/-- Canonical memories that read alike are equal. -/
theorem Memory.ext_of_wfFrom : ∀ {m m' : Memory} {lo : Nat}, Memory.wfFrom lo m = true → Memory.wfFrom lo m' = true →
    (∀ a, m.read a = m'.read a) → m = m'
  | [], [], _, _, _, _ => rfl
  | [], (a, b) :: m', lo, _, hm', h => by
    rw [Memory.wfFrom_cons] at hm'
    have := h a
    simp [Memory.read_cons] at this
    exact absurd this.symm hm'.2.2.1
  | (a, b) :: m, [], lo, hm, _, h => by
    rw [Memory.wfFrom_cons] at hm
    have := h a
    simp [Memory.read_cons] at this
    exact absurd this hm.2.2.1
  | (a, b) :: m, (a', b') :: m', lo, hm, hm', h => by
    rw [Memory.wfFrom_cons] at hm hm'
    have haa : a = a' := by
      rcases Nat.lt_trichotomy a a' with hlt | heq | hgt
      · have := h a
        rw [Memory.read_cons, Memory.read_cons, if_pos rfl, if_neg (by omega),
          Memory.read_lt_of_wfFrom hm'.2.2.2 (by omega)] at this
        exact absurd this hm.2.2.1
      · exact heq
      · have := h a'
        rw [Memory.read_cons, Memory.read_cons, if_neg (by omega), if_pos rfl,
          Memory.read_lt_of_wfFrom hm.2.2.2 (by omega)] at this
        exact absurd this.symm hm'.2.2.1
    subst haa
    have hbb : b = b' := by
      have := h a
      simpa [Memory.read_cons] using this
    subst hbb
    congr 1
    refine Memory.ext_of_wfFrom hm.2.2.2 hm'.2.2.2 fun c => ?_
    have := h c
    rw [Memory.read_cons, Memory.read_cons] at this
    by_cases hc : c = a
    · subst hc
      rw [Memory.read_lt_of_wfFrom hm.2.2.2 (by omega), Memory.read_lt_of_wfFrom hm'.2.2.2 (by omega)]
    · simpa [hc] using this

theorem Memory.ext_of_wf {m m' : Memory} (hm : m.wf = true) (hm' : m'.wf = true) (h : ∀ a, m.read a = m'.read a) :
    m = m' := Memory.ext_of_wfFrom hm hm' h

/-! ### Blocks of bytes -/

/-- Reading after a LOAD: the image's byte inside it, the old byte elsewhere (R201). -/
theorem Memory.read_load : ∀ (bs : List Byte) (m : Memory) (a c : Nat),
    (m.load a bs).read c = if a ≤ c then bs.getD (c - a) (m.read c) else m.read c
  | [], m, a, c => by simp [Memory.load]
  | b :: bs, m, a, c => by
    rw [Memory.load, Memory.read_load bs, Memory.read_write]
    by_cases hca : c = a
    · subst hca
      rw [if_neg (by omega)]
      simp
    · by_cases h : a ≤ c
      · have h1 : a + 1 ≤ c := by omega
        have h2 : c - a = (c - (a + 1)) + 1 := by omega
        simp [h, h1, hca, h2]
      · have h1 : ¬ a + 1 ≤ c := by omega
        simp [h, h1, hca]

/-- The addresses of one access are pairwise distinct (R57). -/
theorem ea_inj {i : Word} {j k : Nat} (hj : j < Config.memSize) (hk : k < Config.memSize) (h : ea i j = ea i k) :
    j = k := by
  unfold ea at h
  simp only [Config.memSize] at *
  omega

/-- A byte no address of the block names is kept. -/
theorem Memory.read_storeI_other {i : Word} {c : Nat} : ∀ {bs : List Byte} {m : Memory} {k : Nat},
    (∀ j, j < bs.length → c ≠ ea i (k + j)) → (m.storeI i k bs).read c = m.read c
  | [], _, _, _ => rfl
  | b :: bs, m, k, h => by
    rw [Memory.storeI, Memory.read_storeI_other fun j hj => ?_, Memory.read_write_other (by simpa using h 0 (by simp))]
    have := h (j + 1) (by simpa using hj)
    rwa [show k + 1 + j = k + (j + 1) by omega]

/-- Byte j of the block stands at ea(k + j) (R57). -/
theorem Memory.read_storeI {i : Word} : ∀ {bs : List Byte} {m : Memory} {k j : Nat} (hj : j < bs.length),
    k + bs.length ≤ Config.memSize → (m.storeI i k bs).read (ea i (k + j)) = bs[j]
  | b :: bs, m, k, 0, _, hlen => by
    simp only [List.length_cons] at hlen
    have hne : ∀ j, j < bs.length → ea i k ≠ ea i (k + 1 + j) := fun j hj heq => by
      have := ea_inj (by omega) (by omega) heq
      omega
    change ((m.write (ea i k) b).storeI i (k + 1) bs).read (ea i k) = b
    rw [Memory.read_storeI_other hne, Memory.read_write_same]
  | b :: bs, m, k, j + 1, hj, hlen => by
    simp only [List.length_cons] at hlen hj
    have := Memory.read_storeI (i := i) (bs := bs) (m := m.write (ea i k) b) (k := k + 1) (j := j) (by omega) (by omega)
    rw [Memory.storeI, show k + (j + 1) = k + 1 + j by omega, this]
    rfl

/-- Byte j of a block stored from ea(0) on is read back at ea(j) (R56, R57). -/
theorem State.readByte_storeI (s : State) {bs : List Byte} (hlen : bs.length ≤ Config.memSize) {j : Nat}
    (hj : j < bs.length) : (s.storeI bs).readByte (ea s.i j) = bs[j] := by
  have h := Memory.read_storeI (i := s.i) (m := s.mem) (k := 0) hj (by omega)
  rw [Nat.zero_add] at h
  exact h

/-- A byte at none of the block's addresses is kept. -/
theorem State.readByte_storeI_other (s : State) {bs : List Byte} {a : Nat}
    (h : ∀ j, j < bs.length → a ≠ ea s.i j) : (s.storeI bs).readByte a = s.readByte a :=
  Memory.read_storeI_other (by simpa using h)

@[simp] theorem State.length_regsUpTo (s : State) (x : Reg) : (s.regsUpTo x).length = x.val + 1 := by
  simp [State.regsUpTo]

/-- The k-th byte FX55 stores is V[k] (R144). -/
theorem State.getElem_regsUpTo (s : State) (x r : Reg) (h : r.val < (s.regsUpTo x).length) :
    (s.regsUpTo x)[r.val] = s.getV r := by
  simp [State.regsUpTo, State.getV]

/-- The low nibble as a number (R160). -/
theorem lowNibble_val (b : Byte) : (lowNibble b).val = b.toNat % 16 := by
  change (b.extractLsb' 0 4).toNat = _
  simp [BitVec.extractLsb'_toNat]

end Sys2Proof.Machine
end

