-- ==== Sys2Proof/Laws/Ops.lean ====
section
/-!
SUPPORT. One lemma per shared operation that says what it can do, and what a step can do.
-/

namespace Sys2Proof.Machine

theorem State.canFetch_iff (s : State) : s.canFetch = true ↔ s.pc.toNat ≤ 0xFFE := by
  simp [State.canFetch]

theorem State.stackFull_iff (s : State) : s.stackFull = true ↔ s.params.stackDepth = some s.stack.length := by
  simp [State.stackFull]

/-- The decoder on the fetched bytes is the decoder on the fetched word (R53). -/
theorem State.decode_fetchBytes (s : State) :
    decode s.fetchBytes =
      match decodeWord s.fetchWord with
      | .ok i => .ok (i, [])
      | .error e => .error e := rfl

/-- Everything a step can do (R84): a fetch fault, a decode failure, or the decoded instruction. -/
theorem step_eq (s : State) :
    step s =
      if s.pc.toNat ≤ 0xFFE then
        match decodeWord s.fetchWord with
        | .ok i => exec i s.advance
        | .error _ => .fault (.decodeFailure s.pc s.fetchWord)
      else .fault (.fetchOutOfRange s.pc) := by
  unfold step
  rw [State.decode_fetchBytes]
  by_cases h : s.pc.toNat ≤ 0xFFE
  · rw [if_pos ((State.canFetch_iff s).mpr h), if_pos h]
    cases decodeWord s.fetchWord <;> rfl
  · rw [if_neg (fun hc => h ((State.canFetch_iff s).mp hc)), if_neg h]
    rfl

/-- Inside a meaning reached by STEP, pc0 is the address the instruction was fetched from (R84). -/
@[simp] theorem State.pc0_advance (s : State) : s.advance.pc0 = s.pc := by
  simp [State.pc0]

theorem execRet_nil {s : State} (h : s.stack = []) : execRet s = .fault (.stackUnderflow s.pc0 0x00EE) := by
  simp [execRet, h, raiseFault, encode]

theorem execRet_cons {s : State} {w : Word} {rest : List Word} (h : s.stack = w :: rest) :
    execRet s = .next ((s.setStack rest).jump w) := by
  simp [execRet, h]

theorem execCall_full {nnn : Addr} {s : State} (h : s.stackFull = true) :
    execCall nnn s = .fault (.stackOverflow s.pc0 (encode (.call nnn))) := by
  simp [execCall, h, raiseFault]

theorem execCall_room {nnn : Addr} {s : State} (h : s.stackFull = false) :
    execCall nnn s = .next ((s.push s.pc).jump (zextAddr nnn)) := by
  simp [execCall, h]

/-- No key is found exactly when none is down. -/
theorem State.firstKeyDown_none (s : State) : s.firstKeyDown = none ↔ ∀ k, s.keyDown k = false := by
  simp [State.firstKeyDown, List.find?_eq_none]

/-- A key found is down. -/
theorem State.firstKeyDown_down {s : State} {k : Reg} (h : s.firstKeyDown = some k) : s.keyDown k = true :=
  List.find?_some h

/-- The two bytes of a fetched word are the bytes at PC and PC + 1 (R53). -/
@[simp] theorem State.highByte_fetchWord (s : State) : highByte s.fetchWord = s.readByte s.pc.toNat :=
  highByte_joinBytes _ _

@[simp] theorem State.lowByte_fetchWord (s : State) : lowByte s.fetchWord = s.readByte (s.pc.toNat + 1) :=
  lowByte_joinBytes _ _

/-- The word placed by `storeAtPc` is the word the next fetch reads. -/
theorem State.fetchWord_storeAtPc (s : State) (w : Word) : (s.storeAtPc w).fetchWord = w := by
  have key : ∀ t : State, State.fetchWord { t with mem := t.mem.load t.pc.toNat (wordBytes w) } = w := by
    intro t
    simp [State.fetchWord, State.readByte, wordBytes, Memory.load, Memory.read_write, joinBytes_bytes]
  exact key _

theorem State.canFetch_storeAtPc (s : State) (w : Word) : (s.storeAtPc w).canFetch = true := by
  rw [State.canFetch_iff]
  change (if s.canFetch then s else s.jump Config.programOrigin).pc.toNat ≤ 0xFFE
  split
  · next h => exact (State.canFetch_iff s).mp h
  · exact (by decide : Config.programOrigin.toNat ≤ 0xFFE)

/-- The very next step runs the word the host places (withFetchWord): the instruction the decoder reads from it, at
the advanced PC. -/
theorem step_withFetchWord {s : State} {nbits w : Nat} {i : Instr} (h : decodeTableWord nbits w = some i) :
    step (s.withFetchWord nbits w) = exec i (s.withFetchWord nbits w).advance := by
  have hw : decodeWord (tableWord nbits w) = .ok i := by
    have e := decode_wordBytes (tableWord nbits w) []
    rw [List.append_nil] at e
    unfold decodeTableWord at h
    rw [e] at h
    cases hd : decodeWord (tableWord nbits w) with
    | ok j => rw [hd] at h; simpa using h
    | error err => rw [hd] at h; simp at h
  unfold State.withFetchWord
  rw [step_eq, if_pos ((State.canFetch_iff _).mp (State.canFetch_storeAtPc s _)), State.fetchWord_storeAtPc, hw]

end Sys2Proof.Machine
end

