-- ==== Sys2Proof/Laws/PerInstr.lean ====
section
/-!
SUPPORT. Per instruction: the word of a well-formed instruction selects the row of its own mnemonic (R86).
-/

namespace Sys2Proof.Laws.OpcodeRow

/-- The encoder's word matches the mask and value of its mnemonic's row. -/
def Statement (i : Instr) : Prop :=
  i.wf = true → ∃ r ∈ opcodeMap, r.mnemonic = i.mnemonic ∧ encode i &&& r.mask = r.value

theorem formatA_family (f : BitVec 4) (nnn : Addr) : formatA f nnn &&& 0xF000#16 = formatA f 0 := by
  apply BitVec.eq_of_getLsbD_eq
  intro i hi
  simp only [formatA, BitVec.getLsbD_and, BitVec.getLsbD_append]
  interval_cases i <;> simp

theorem formatXI_family (f : BitVec 4) (x : Reg) (nn : Byte) : formatXI f x nn &&& 0xF000#16 = formatA f 0 := by
  apply BitVec.eq_of_getLsbD_eq
  intro i hi
  simp only [formatA, formatXI, BitVec.getLsbD_and, BitVec.getLsbD_append]
  interval_cases i <;> simp

theorem formatXYN_family (f : BitVec 4) (x y : Reg) (n : BitVec 4) :
    formatXYN f x y n &&& 0xF000#16 = formatA f 0 := by
  apply BitVec.eq_of_getLsbD_eq
  intro i hi
  simp only [formatA, formatXYN, BitVec.getLsbD_and, BitVec.getLsbD_append]
  interval_cases i <;> simp

theorem formatXYN_selector (f : BitVec 4) (x y : Reg) (n : BitVec 4) :
    formatXYN f x y n &&& 0xF00F#16 = formatXYN f 0 0 n := by
  apply BitVec.eq_of_getLsbD_eq
  intro i hi
  simp only [formatXYN, BitVec.getLsbD_and, BitVec.getLsbD_append]
  interval_cases i <;> simp [regBits]

theorem formatXS_selector (f : BitVec 4) (x : Reg) (sel : Byte) :
    formatXS f x sel &&& 0xF0FF#16 = formatXS f 0 sel := by
  apply BitVec.eq_of_getLsbD_eq
  intro i hi
  simp only [formatXS, BitVec.getLsbD_and, BitVec.getLsbD_append]
  interval_cases i <;> simp [regBits]

theorem cls : Statement (.cls) := fun _ =>
  ⟨⟨"CLS", 0xFFFF#16, 0x00E0#16⟩, by simp [opcodeMap, opcodeRows1, opcodeRows2, opcodeRows3, opcodeRows4], rfl, rfl⟩

theorem ret : Statement (.ret) := fun _ =>
  ⟨⟨"RET", 0xFFFF#16, 0x00EE#16⟩, by simp [opcodeMap, opcodeRows1, opcodeRows2, opcodeRows3, opcodeRows4], rfl, rfl⟩

theorem jp (nnn : Addr) : Statement (.jp nnn) := fun _ =>
  ⟨⟨"JP", 0xF000#16, 0x1000#16⟩, by simp [opcodeMap, opcodeRows1, opcodeRows2, opcodeRows3, opcodeRows4], rfl, (formatA_family ..).trans rfl⟩

theorem call (nnn : Addr) : Statement (.call nnn) := fun _ =>
  ⟨⟨"CALL", 0xF000#16, 0x2000#16⟩, by simp [opcodeMap, opcodeRows1, opcodeRows2, opcodeRows3, opcodeRows4], rfl, (formatA_family ..).trans rfl⟩

theorem seImm (x : Reg) (nn : Byte) : Statement (.seImm x nn) := fun _ =>
  ⟨⟨"SE_IMM", 0xF000#16, 0x3000#16⟩, by simp [opcodeMap, opcodeRows1, opcodeRows2, opcodeRows3, opcodeRows4], rfl, (formatXI_family ..).trans rfl⟩

theorem sneImm (x : Reg) (nn : Byte) : Statement (.sneImm x nn) := fun _ =>
  ⟨⟨"SNE_IMM", 0xF000#16, 0x4000#16⟩, by simp [opcodeMap, opcodeRows1, opcodeRows2, opcodeRows3, opcodeRows4], rfl, (formatXI_family ..).trans rfl⟩

theorem seReg (x y : Reg) : Statement (.seReg x y) := fun _ =>
  ⟨⟨"SE_REG", 0xF00F#16, 0x5000#16⟩, by simp [opcodeMap, opcodeRows1, opcodeRows2, opcodeRows3, opcodeRows4], rfl, (formatXYN_selector ..).trans rfl⟩

theorem ldImm (x : Reg) (nn : Byte) : Statement (.ldImm x nn) := fun _ =>
  ⟨⟨"LD_IMM", 0xF000#16, 0x6000#16⟩, by simp [opcodeMap, opcodeRows1, opcodeRows2, opcodeRows3, opcodeRows4], rfl, (formatXI_family ..).trans rfl⟩

theorem addImm (x : Reg) (nn : Byte) : Statement (.addImm x nn) := fun _ =>
  ⟨⟨"ADD_IMM", 0xF000#16, 0x7000#16⟩, by simp [opcodeMap, opcodeRows1, opcodeRows2, opcodeRows3, opcodeRows4], rfl, (formatXI_family ..).trans rfl⟩

theorem ldReg (x y : Reg) : Statement (.ldReg x y) := fun _ =>
  ⟨⟨"LD_REG", 0xF00F#16, 0x8000#16⟩, by simp [opcodeMap, opcodeRows1, opcodeRows2, opcodeRows3, opcodeRows4], rfl, (formatXYN_selector ..).trans rfl⟩

theorem or (x y : Reg) : Statement (.or x y) := fun _ =>
  ⟨⟨"OR", 0xF00F#16, 0x8001#16⟩, by simp [opcodeMap, opcodeRows1, opcodeRows2, opcodeRows3, opcodeRows4], rfl, (formatXYN_selector ..).trans rfl⟩

theorem and (x y : Reg) : Statement (.and x y) := fun _ =>
  ⟨⟨"AND", 0xF00F#16, 0x8002#16⟩, by simp [opcodeMap, opcodeRows1, opcodeRows2, opcodeRows3, opcodeRows4], rfl, (formatXYN_selector ..).trans rfl⟩

theorem xor (x y : Reg) : Statement (.xor x y) := fun _ =>
  ⟨⟨"XOR", 0xF00F#16, 0x8003#16⟩, by simp [opcodeMap, opcodeRows1, opcodeRows2, opcodeRows3, opcodeRows4], rfl, (formatXYN_selector ..).trans rfl⟩

theorem addReg (x y : Reg) : Statement (.addReg x y) := fun _ =>
  ⟨⟨"ADD_REG", 0xF00F#16, 0x8004#16⟩, by simp [opcodeMap, opcodeRows1, opcodeRows2, opcodeRows3, opcodeRows4], rfl, (formatXYN_selector ..).trans rfl⟩

theorem sub (x y : Reg) : Statement (.sub x y) := fun _ =>
  ⟨⟨"SUB", 0xF00F#16, 0x8005#16⟩, by simp [opcodeMap, opcodeRows1, opcodeRows2, opcodeRows3, opcodeRows4], rfl, (formatXYN_selector ..).trans rfl⟩

theorem shr (x y : Reg) : Statement (.shr x y) := fun _ =>
  ⟨⟨"SHR", 0xF00F#16, 0x8006#16⟩, by simp [opcodeMap, opcodeRows1, opcodeRows2, opcodeRows3, opcodeRows4], rfl, (formatXYN_selector ..).trans rfl⟩

theorem subn (x y : Reg) : Statement (.subn x y) := fun _ =>
  ⟨⟨"SUBN", 0xF00F#16, 0x8007#16⟩, by simp [opcodeMap, opcodeRows1, opcodeRows2, opcodeRows3, opcodeRows4], rfl, (formatXYN_selector ..).trans rfl⟩

theorem shl (x y : Reg) : Statement (.shl x y) := fun _ =>
  ⟨⟨"SHL", 0xF00F#16, 0x800E#16⟩, by simp [opcodeMap, opcodeRows1, opcodeRows2, opcodeRows3, opcodeRows4], rfl, (formatXYN_selector ..).trans rfl⟩

theorem sneReg (x y : Reg) : Statement (.sneReg x y) := fun _ =>
  ⟨⟨"SNE_REG", 0xF00F#16, 0x9000#16⟩, by simp [opcodeMap, opcodeRows1, opcodeRows2, opcodeRows3, opcodeRows4], rfl, (formatXYN_selector ..).trans rfl⟩

theorem ldI (nnn : Addr) : Statement (.ldI nnn) := fun _ =>
  ⟨⟨"LD_I", 0xF000#16, 0xA000#16⟩, by simp [opcodeMap, opcodeRows1, opcodeRows2, opcodeRows3, opcodeRows4], rfl, (formatA_family ..).trans rfl⟩

theorem jpV0 (nnn : Addr) : Statement (.jpV0 nnn) := fun _ =>
  ⟨⟨"JP_V0", 0xF000#16, 0xB000#16⟩, by simp [opcodeMap, opcodeRows1, opcodeRows2, opcodeRows3, opcodeRows4], rfl, (formatA_family ..).trans rfl⟩

theorem rnd (x : Reg) (nn : Byte) : Statement (.rnd x nn) := fun _ =>
  ⟨⟨"RND", 0xF000#16, 0xC000#16⟩, by simp [opcodeMap, opcodeRows1, opcodeRows2, opcodeRows3, opcodeRows4], rfl, (formatXI_family ..).trans rfl⟩

theorem drw (x y : Reg) (n : BitVec 4) : Statement (.drw x y n) := fun _ =>
  ⟨⟨"DRW", 0xF000#16, 0xD000#16⟩, by simp [opcodeMap, opcodeRows1, opcodeRows2, opcodeRows3, opcodeRows4], rfl, (formatXYN_family ..).trans rfl⟩

theorem skp (x : Reg) : Statement (.skp x) := fun _ =>
  ⟨⟨"SKP", 0xF0FF#16, 0xE09E#16⟩, by simp [opcodeMap, opcodeRows1, opcodeRows2, opcodeRows3, opcodeRows4], rfl, (formatXS_selector ..).trans rfl⟩

theorem sknp (x : Reg) : Statement (.sknp x) := fun _ =>
  ⟨⟨"SKNP", 0xF0FF#16, 0xE0A1#16⟩, by simp [opcodeMap, opcodeRows1, opcodeRows2, opcodeRows3, opcodeRows4], rfl, (formatXS_selector ..).trans rfl⟩

theorem ldVxDt (x : Reg) : Statement (.ldVxDt x) := fun _ =>
  ⟨⟨"LD_VX_DT", 0xF0FF#16, 0xF007#16⟩, by simp [opcodeMap, opcodeRows1, opcodeRows2, opcodeRows3, opcodeRows4], rfl, (formatXS_selector ..).trans rfl⟩

theorem ldVxK (x : Reg) : Statement (.ldVxK x) := fun _ =>
  ⟨⟨"LD_VX_K", 0xF0FF#16, 0xF00A#16⟩, by simp [opcodeMap, opcodeRows1, opcodeRows2, opcodeRows3, opcodeRows4], rfl, (formatXS_selector ..).trans rfl⟩

theorem ldDtVx (x : Reg) : Statement (.ldDtVx x) := fun _ =>
  ⟨⟨"LD_DT_VX", 0xF0FF#16, 0xF015#16⟩, by simp [opcodeMap, opcodeRows1, opcodeRows2, opcodeRows3, opcodeRows4], rfl, (formatXS_selector ..).trans rfl⟩

theorem ldStVx (x : Reg) : Statement (.ldStVx x) := fun _ =>
  ⟨⟨"LD_ST_VX", 0xF0FF#16, 0xF018#16⟩, by simp [opcodeMap, opcodeRows1, opcodeRows2, opcodeRows3, opcodeRows4], rfl, (formatXS_selector ..).trans rfl⟩

theorem addI (x : Reg) : Statement (.addI x) := fun _ =>
  ⟨⟨"ADD_I", 0xF0FF#16, 0xF01E#16⟩, by simp [opcodeMap, opcodeRows1, opcodeRows2, opcodeRows3, opcodeRows4], rfl, (formatXS_selector ..).trans rfl⟩

theorem ldF (x : Reg) : Statement (.ldF x) := fun _ =>
  ⟨⟨"LD_F", 0xF0FF#16, 0xF029#16⟩, by simp [opcodeMap, opcodeRows1, opcodeRows2, opcodeRows3, opcodeRows4], rfl, (formatXS_selector ..).trans rfl⟩

theorem ldB (x : Reg) : Statement (.ldB x) := fun _ =>
  ⟨⟨"LD_B", 0xF0FF#16, 0xF033#16⟩, by simp [opcodeMap, opcodeRows1, opcodeRows2, opcodeRows3, opcodeRows4], rfl, (formatXS_selector ..).trans rfl⟩

theorem stRegs (x : Reg) : Statement (.stRegs x) := fun _ =>
  ⟨⟨"ST_REGS", 0xF0FF#16, 0xF055#16⟩, by simp [opcodeMap, opcodeRows1, opcodeRows2, opcodeRows3, opcodeRows4], rfl, (formatXS_selector ..).trans rfl⟩

theorem ldRegs (x : Reg) : Statement (.ldRegs x) := fun _ =>
  ⟨⟨"LD_REGS", 0xF0FF#16, 0xF065#16⟩, by simp [opcodeMap, opcodeRows1, opcodeRows2, opcodeRows3, opcodeRows4], rfl, (formatXS_selector ..).trans rfl⟩

theorem sys (nnn : Addr) : Statement (.sys nnn) := fun _ =>
  ⟨⟨"SYS", 0xF000#16, 0x0000#16⟩, by simp [opcodeMap, opcodeRows1, opcodeRows2, opcodeRows3, opcodeRows4], rfl, (formatA_family ..).trans rfl⟩

end Sys2Proof.Laws.OpcodeRow
end

