-- ==== Sys2Proof/Tests/Slice0.lean ====
section
/-!
SUPPORT. Tests with expected values from the spec (the encodings of R80 and R86, the vectors T1 to T95 of
95_test_vectors.md, the source's examples E1 to E10), the refusals of `Instr.wf`, and one witness per statement that
has hypotheses.
-/

open Sys2Proof Sys2Proof.Machine

namespace Sys2Proof.Tests

/-- The state after RESET with this word at PC and one STEP taken: the vectors' convention. -/
def run (s : State) (w : Nat) : State := (event .step (s.withFetchWord 16 w)).1

/-- The outcome of that STEP. -/
def outcome (s : State) (w : Nat) : EventOutput := (event .step (s.withFetchWord 16 w)).2

/-- The state after RESET. -/
abbrev s0 : State := State.reset

/-- Bytes of memory set, on top of a state. -/
def poke (s : State) (a : Nat) (bytes : List Byte) : State := { s with mem := s.mem.load a bytes }

/-- The bytes at consecutive addresses. -/
def peek (s : State) (a n : Nat) : List Byte := (List.range n).map fun k => s.readByte (a + k)

/-- The display with these cells lit. -/
def lit (cells : List (Fin 64 × Fin 32)) : Display := cells.foldl (fun d c => d.flip c.1 c.2) Display.clear

/-! ### Well-formedness: the one check, R87 -/

theorem test_wf_sys_refuses_cls_and_ret_words :
    (Instr.sys 0x0E0).wf = false ∧ (Instr.sys 0x0EE).wf = false ∧ (Instr.sys 0x0E1).wf = true := by decide

/-! ### Decode: every constructor's word written out bit by bit (R80, R86) -/

theorem test_decode_control :
    decodeWord 0b0000000011100000 = .ok .cls ∧ decodeWord 0b0000000011101110 = .ok .ret ∧
    decodeWord 0b0001101000110101 = .ok (.jp 0xA35) ∧ decodeWord 0b0010101000110101 = .ok (.call 0xA35) ∧
    decodeWord 0b1011101000110101 = .ok (.jpV0 0xA35) ∧ decodeWord 0b0000101000110101 = .ok (.sys 0xA35) ∧
    decodeWord 0b0000000000000000 = .ok (.sys 0) ∧ decodeWord 0b0000000111100000 = .ok (.sys 0x1E0) := by decide

theorem test_decode_skips :
    decodeWord 0b0011101000110101 = .ok (.seImm 0xA 0x35) ∧ decodeWord 0b0100101000110101 = .ok (.sneImm 0xA 0x35) ∧
    decodeWord 0b0101101000110000 = .ok (.seReg 0xA 3) ∧ decodeWord 0b1001101000110000 = .ok (.sneReg 0xA 3) ∧
    decodeWord 0b1110101010011110 = .ok (.skp 0xA) ∧ decodeWord 0b1110101010100001 = .ok (.sknp 0xA) := by decide

theorem test_decode_alu :
    decodeWord 0b0110101000110101 = .ok (.ldImm 0xA 0x35) ∧ decodeWord 0b0111101000110101 = .ok (.addImm 0xA 0x35) ∧
    decodeWord 0b1000101000110000 = .ok (.ldReg 0xA 3) ∧ decodeWord 0b1000101000110001 = .ok (.or 0xA 3) ∧
    decodeWord 0b1000101000110010 = .ok (.and 0xA 3) ∧ decodeWord 0b1000101000110011 = .ok (.xor 0xA 3) ∧
    decodeWord 0b1000101000110100 = .ok (.addReg 0xA 3) ∧ decodeWord 0b1000101000110101 = .ok (.sub 0xA 3) ∧
    decodeWord 0b1000101000110110 = .ok (.shr 0xA 3) ∧ decodeWord 0b1000101000110111 = .ok (.subn 0xA 3) ∧
    decodeWord 0b1000101000111110 = .ok (.shl 0xA 3) ∧ decodeWord 0b1100101000110101 = .ok (.rnd 0xA 0x35) := by
  decide

theorem test_decode_index_and_memory :
    decodeWord 0b1010101000110101 = .ok (.ldI 0xA35) ∧ decodeWord 0b1111101000011110 = .ok (.addI 0xA) ∧
    decodeWord 0b1111101000101001 = .ok (.ldF 0xA) ∧ decodeWord 0b1111101000110011 = .ok (.ldB 0xA) ∧
    decodeWord 0b1111101001010101 = .ok (.stRegs 0xA) ∧ decodeWord 0b1111101001100101 = .ok (.ldRegs 0xA) := by decide

theorem test_decode_display_and_timers :
    decodeWord 0b1101101000110101 = .ok (.drw 0xA 3 5) ∧ decodeWord 0b1111101000000111 = .ok (.ldVxDt 0xA) ∧
    decodeWord 0b1111101000001010 = .ok (.ldVxK 0xA) ∧ decodeWord 0b1111101000010101 = .ok (.ldDtVx 0xA) ∧
    decodeWord 0b1111101000011000 = .ok (.ldStVx 0xA) := by decide

/-- T80 to T84 and the two short byte strings. -/
theorem test_decode_rejects_by_name :
    decodeWord 0x5121 = .error (.unmatchedFamily5 0x5121) ∧ decodeWord 0x8128 = .error (.unmatchedFamily8 0x8128) ∧
    decodeWord 0x812F = .error (.unmatchedFamily8 0x812F) ∧ decodeWord 0x9125 = .error (.unmatchedFamily9 0x9125) ∧
    decodeWord 0xE19F = .error (.unmatchedFamilyE 0xE19F) ∧ decodeWord 0xE1A0 = .error (.unmatchedFamilyE 0xE1A0) ∧
    decodeWord 0xF1FF = .error (.unmatchedFamilyF 0xF1FF) ∧ decodeWord 0xF175 = .error (.unmatchedFamilyF 0xF175) ∧
    decode [] = .error .tooShort ∧ decode [0x12] = .error .tooShort := by decide

/-- The word the table numbers is the word the decoder reads: 0x8014, the source's ADD V0, V1. -/
theorem test_decode_table_word :
    decodeTableWord 16 0x8014 = some (.addReg 0 1) ∧ decodeTableWord 16 0x00EE = some .ret ∧
    decodeTableWord 16 0x5121 = none := by decide

/-! ### Control transfer: T1 to T9, T85, T86 -/

theorem test_T1_T3_sys : run s0 0x0345 = { s0.withFetchWord 16 0x0345 with pc := 0x202 } ∧
    (run { s0 with disp := lit [(5, 0)] } 0x01E0).disp.cell 5 0 = true := by decide

theorem test_T4_jp : (run { s0 with pc := 0x206 } 0x1208).pc = 0x208 ∧ (run s0 0x1201).pc = 0x201 := by decide

theorem test_T6_call : (run { s0 with pc := 0x204 } 0x220A).stack = [0x206] ∧
    (run { s0 with pc := 0x204 } 0x220A).pc = 0x20A := by decide

theorem test_T86_call_full :
    outcome { s0 with pc := 0x300, stack := [0x302, 0x202], params := { stackDepth := some 2, fontBase := 0 } } 0x2400
      = .fault (.stackOverflow 0x300 0x2400) ∧
    (run { s0 with pc := 0x300, stack := List.replicate 16 0x202, params := { stackDepth := none, fontBase := 0 } }
      0x2400).stack = 0x302 :: List.replicate 16 0x202 := by decide

theorem test_T7_ret : (run { s0 with pc := 0x212, stack := [0x206] } 0x00EE).pc = 0x206 ∧
    (run { s0 with pc := 0x212, stack := [0x206] } 0x00EE).stack = [] := by decide

theorem test_T85_ret_empty : outcome { s0 with pc := 0x20E } 0x00EE = .fault (.stackUnderflow 0x20E 0x00EE) ∧
    (run { s0 with pc := 0x20E } 0x00EE).pc = 0x210 := by decide

theorem test_T8_T9_jpV0 : (run (s0.setV 0 0x04) 0xB300).pc = 0x304 ∧ (run (s0.setV 0 0xFF) 0xBFFF).pc = 0x10FE := by
  decide

/-! ### Skips: T10 to T19, T70 to T74 -/

theorem test_T10_seImm : (run (s0.setV 3 0x42) 0x3342).pc = 0x204 ∧ (run (s0.setV 3 0x42) 0x3343).pc = 0x202 := by
  decide

theorem test_T19_skip_past_memory : (run { s0 with pc := 0xFFC } 0x3000).pc = 0x1000 := by decide

theorem test_T12_sneImm : (run (s0.setV 3 0x42) 0x4342).pc = 0x202 ∧ (run (s0.setV 3 0x42) 0x4343).pc = 0x204 := by
  decide

theorem test_T14_seReg : (run ((s0.setV 1 9).setV 2 9) 0x5120).pc = 0x204 ∧
    (run ((s0.setV 1 9).setV 2 8) 0x5120).pc = 0x202 ∧ (run (s0.setV 0xA 7) 0x5AA0).pc = 0x204 := by decide

theorem test_T16_sneReg : (run ((s0.setV 1 9).setV 2 9) 0x9120).pc = 0x202 ∧
    (run ((s0.setV 1 9).setV 2 8) 0x9120).pc = 0x204 ∧ (run (s0.setV 0xA 7) 0x9AA0).pc = 0x202 := by decide

theorem test_T70_T74_skp : (run { s0.setV 1 7 with keys := 0x0080 } 0xE19E).pc = 0x204 ∧
    (run (s0.setV 1 7) 0xE19E).pc = 0x202 ∧ (run { s0.setV 1 0x17 with keys := 0x0080 } 0xE19E).pc = 0x204 := by
  decide

theorem test_T72_T74_sknp : (run { s0.setV 1 7 with keys := 0x0080 } 0xE1A1).pc = 0x202 ∧
    (run (s0.setV 1 7) 0xE1A1).pc = 0x204 ∧ (run { s0.setV 1 0xF7 with keys := 0x0080 } 0xE1A1).pc = 0x202 := by
  decide

/-! ### Loads and ALU: T20 to T49 -/

theorem test_T20_ldImm : (run s0 0x6A2B).getV 0xA = 0x2B ∧ (run s0 0x6F07).getV 0xF = 0x07 := by decide

theorem test_T22_addImm : (run ((s0.setV 1 0xFE).setV 15 0x55) 0x7105).getV 1 = 0x03 ∧
    (run ((s0.setV 1 0xFE).setV 15 0x55) 0x7105).getV 15 = 0x55 ∧ (run (s0.setV 15 0xFF) 0x7F01).getV 15 = 0 := by
  decide

theorem test_T24_ldReg : (run (s0.setV 2 0x55) 0x8120).getV 1 = 0x55 := by decide

theorem test_T25_or : (run (((s0.setV 1 0xF0).setV 2 0x0F).setV 15 0x55) 0x8121).getV 1 = 0xFF ∧
    (run (((s0.setV 1 0xF0).setV 2 0x0F).setV 15 0x55) 0x8121).getV 15 = 0x55 := by decide

theorem test_T26_and : (run ((s0.setV 1 0xF0).setV 2 0x3C) 0x8122).getV 1 = 0x30 := by decide

theorem test_T27_xor : (run ((s0.setV 1 0xF0).setV 2 0x3C) 0x8123).getV 1 = 0xCC ∧
    (run (s0.setV 1 0xF0) 0x8113).getV 1 = 0 := by decide

theorem test_T29_T30_addReg :
    (run (((s0.setV 0 0x0A).setV 1 5).setV 15 0x55) 0x8014).v = ((s0.setV 0 0x0F).setV 1 5).v ∧
    (run ((s0.setV 0 0xFF).setV 1 1) 0x8014).v = ((s0.setV 1 1).setV 15 1).v := by decide

theorem test_T40_T43_addReg_vf : (run ((s0.setV 15 0xF0).setV 1 0x20) 0x8F14).getV 15 = 0x10 ∧
    (run ((s0.setV 1 0xFF).setV 15 1) 0x81F4).v = (s0.setV 15 1).v ∧ (run (s0.setV 15 0x81) 0x8FF4).getV 15 = 2 := by
  decide

theorem test_T32_T34_sub : (run ((s0.setV 0 0x0A).setV 1 5) 0x8015).v = (((s0.setV 0 5).setV 1 5).setV 15 1).v ∧
    (run (((s0.setV 0 5).setV 1 0x0A).setV 15 1) 0x8015).v = ((s0.setV 0 0xFB).setV 1 0x0A).v ∧
    (run ((s0.setV 0 7).setV 1 7) 0x8015).getV 15 = 1 := by decide

theorem test_T44_T46_sub_vf : (run ((s0.setV 15 5).setV 1 0x0A) 0x8F15).getV 15 = 0xFB ∧
    (run ((s0.setV 1 0x0A).setV 15 0x0B) 0x81F5).v = (s0.setV 1 0xFF).v ∧ (run (s0.setV 15 0x33) 0x8FF5).getV 15 = 0 := by
  decide

theorem test_T35_T36_shr :
    (run ((s0.setV 1 0xAA).setV 2 5) 0x8126).v = (((s0.setV 1 2).setV 2 5).setV 15 1).v ∧
    (run ((s0.setV 1 4).setV 15 1) 0x8116).v = (s0.setV 1 2).v := by decide

theorem test_T47_shr_vf : (run (s0.setV 1 5) 0x8F16).getV 15 = 2 ∧
    (run (s0.setV 15 3) 0x81F6).v = ((s0.setV 1 1).setV 15 1).v := by decide

theorem test_T37_subn : (run ((s0.setV 0 5).setV 1 0x0A) 0x8017).v = (((s0.setV 0 5).setV 1 0x0A).setV 15 1).v ∧
    (run (((s0.setV 0 0x0A).setV 1 5).setV 15 1) 0x8017).v = ((s0.setV 0 0xFB).setV 1 5).v := by decide

theorem test_T48_subn_vf : (run ((s0.setV 15 5).setV 1 0x0A) 0x8F17).getV 15 = 5 ∧
    (run ((s0.setV 1 5).setV 15 3) 0x81F7).v = (s0.setV 1 0xFE).v := by decide

theorem test_T38_shl : (run ((s0.setV 1 0xAA).setV 2 0x81) 0x812E).v = (((s0.setV 1 2).setV 2 0x81).setV 15 1).v ∧
    (run ((s0.setV 2 0x40).setV 15 1) 0x812E).v = ((s0.setV 1 0x80).setV 2 0x40).v := by decide

theorem test_T49_shl_vf : (run (s0.setV 1 0x81) 0x8F1E).getV 15 = 2 ∧
    (run (s0.setV 15 0x80) 0x81FE).v = (s0.setV 15 1).v := by decide

/-- T39: the byte drawn is free, so the masking and the consumed draw are tested, not a value. -/
theorem test_T39_rnd (r : Byte) : Config.randomByte 0 0 = r →
    ∃ t, exec (.rnd 0 0x0F) s0 = .next t ∧ t.getV 0 = r &&& 0x0F ∧ t.rng.draws = 1 := by
  rintro rfl
  exact ⟨_, rfl, rfl, rfl⟩

/-! ### Address register and memory: T50 to T59 -/

theorem test_T50_ldI : (run s0 0xA300).i = 0x300 ∧ (run s0 0xAFFF).i = 0xFFF := by decide

theorem test_T51_T52_addI : (run { (s0.setV 3 5).setV 15 0x55 with i := 0xFFE } 0xF31E).i = 0x1003 ∧
    (run { (s0.setV 3 5).setV 15 0x55 with i := 0xFFE } 0xF31E).getV 15 = 0x55 ∧
    (run { s0.setV 3 1 with i := 0xFFFF } 0xF31E).i = 0 := by decide

theorem test_T53_ldF : (run (s0.setV 2 7) 0xF229).i = 0x23 ∧ (run (s0.setV 2 0x3A) 0xF229).i = 0x32 ∧
    (run { s0.setV 2 7 with params := { stackDepth := some 16, fontBase := 0x050 } } 0xF229).i = 0x73 := by
  decide

theorem test_T54_ldB : peek (run { s0.setV 0 0xEA with i := 0x300 } 0xF033) 0x300 3 = [2, 3, 4] ∧
    peek (run { s0.setV 0 0xFF with i := 0x300 } 0xF033) 0x300 3 = [2, 5, 5] := by decide

theorem test_T55_ldB_wraps : (run { s0.setV 0 0x7B with i := 0xFFF } 0xF033).readByte 0xFFF = 1 ∧
    peek (run { s0.setV 0 0x7B with i := 0xFFF } 0xF033) 0 2 = [2, 3] ∧
    (run { s0.setV 0 0x7B with i := 0xFFF } 0xF033).i = 0xFFF := by decide

theorem test_T56_stRegs :
    peek (run { (((s0.setV 0 2).setV 1 3).setV 2 4).setV 3 9 with i := 0x303 } 0xF255) 0x303 4 = [2, 3, 4, 0] ∧
    (run { (((s0.setV 0 2).setV 1 3).setV 2 4).setV 3 9 with i := 0x303 } 0xF255).i = 0x306 := by decide

theorem test_T59b_stRegs_wraps : (run { (s0.setV 0 0x11).setV 1 0x22 with i := 0xFFF } 0xF155).readByte 0xFFF = 0x11 ∧
    (run { (s0.setV 0 0x11).setV 1 0x22 with i := 0xFFF } 0xF155).readByte 0 = 0x22 ∧
    (run { (s0.setV 0 0x11).setV 1 0x22 with i := 0xFFF } 0xF155).i = 0x1001 := by decide

theorem test_T58_ldRegs :
    (run (poke { s0.setV 3 0x77 with i := 0x300 } 0x300 [2, 3, 4, 9]) 0xF265).v =
      ((((s0.setV 0 2).setV 1 3).setV 2 4).setV 3 0x77).v ∧
    (run (poke { s0.setV 3 0x77 with i := 0x300 } 0x300 [2, 3, 4, 9]) 0xF265).i = 0x303 := by decide

theorem test_T59a_ldRegs_wraps : (run (poke { s0 with i := 0x1003 } 0x003 [0xAB]) 0xF065).getV 0 = 0xAB ∧
    (run (poke { s0 with i := 0x1003 } 0x003 [0xAB]) 0xF065).i = 0x1004 := by decide

/-! ### Display: T60 to T69 -/

theorem test_T60_cls : (run { s0 with disp := lit [(5, 0), (63, 31)] } 0x00E0).disp = Display.clear := by
  decide

theorem test_T63_T64_drw_wraps :
    (run (poke { s0.setV 0 0x3C with i := 0x300 } 0x300 [0xFF]) 0xD011).disp =
      lit [(60, 0), (61, 0), (62, 0), (63, 0), (0, 0), (1, 0), (2, 0), (3, 0)] ∧
    (run (poke { s0.setV 1 0x1F with i := 0x300 } 0x300 [0x80, 0x40]) 0xD012).disp = lit [(0, 31), (1, 0)] := by
  decide

theorem test_T66_T67_drw_flag :
    (run (poke { s0 with i := 0x300, disp := lit [(0, 0)] } 0x300 [0xC0]) 0xD011).disp = lit [(1, 0)] ∧
    (run (poke { s0 with i := 0x300, disp := lit [(0, 0)] } 0x300 [0xC0]) 0xD011).getV 15 = 1 ∧
    (run (poke { s0.setV 15 1 with i := 0x300 } 0x300 [0xFF]) 0xD010).getV 15 = 0 ∧
    (run (poke { s0.setV 15 2 with i := 0x300 } 0x300 [0x80]) 0xDFF1).disp = lit [(2, 2)] := by decide

/-! ### Keypad and timers: T75 to T79 -/

theorem test_T75_ldVxDt : (run { s0 with dt := 2 } 0xF207).getV 2 = 2 ∧ (run { s0 with dt := 2 } 0xF207).dt = 2 := by
  decide

theorem test_T76_ldDtVx : (run (s0.setV 0 3) 0xF015).dt = 3 := by decide

theorem test_T77_ldStVx : (run (s0.setV 4 0x1E) 0xF418).st = 0x1E ∧
    (event .soundRead (run (s0.setV 4 0x1E) 0xF418)).2 = .sound true := by decide

theorem test_T78_ldVxK_stall :
    run { s0.setV 1 0x99 with pc := 0x204 } 0xF10A = { s0.setV 1 0x99 with pc := 0x204 }.withFetchWord 16 0xF10A ∧
    outcome { s0.setV 1 0x99 with pc := 0x204 } 0xF10A = .ok := by decide

theorem test_T79_ldVxK_press : (run { s0.setV 1 0x99 with keys := 0x0880 } 0xF10A).getV 1 = 7 ∧
    (run { s0.setV 1 0x99 with keys := 0x0880 } 0xF10A).pc = 0x202 ∧ (run { s0 with keys := 0x8000 } 0xFF0A).getV 15 = 15 ∧
    (run { s0.setV 3 9 with keys := 0x0001 } 0xF30A).getV 3 = 0 := by decide

/-! ### Faults of the step: T80 to T89 -/

theorem test_T80_decode_failure : outcome s0 0x5121 = .fault (.decodeFailure 0x200 0x5121) ∧
    run s0 0x5121 = { s0.withFetchWord 16 0x5121 with pc := 0x202 } := by decide

theorem test_T87_T88_fetch_out_of_range :
    event .step { s0 with pc := 0xFFF } = ({ s0 with pc := 0xFFF }, .fault (.fetchOutOfRange 0xFFF)) ∧
    (event .step { s0 with pc := 0xFFFF }).2 = .fault (.fetchOutOfRange 0xFFFF) := by decide

theorem test_T89_last_word_fetchable : (run { s0 with pc := 0xFFE } 0x6A01).getV 0xA = 1 ∧
    (run { s0 with pc := 0xFFE } 0x6A01).pc = 0x1000 := by decide

/-! ### Host events: T90 to T95 -/

theorem test_T90_T91_tick : (event .tick { s0 with dt := 5, st := 1 }).1.dt = 4 ∧
    (event .tick { s0 with dt := 5, st := 1 }).1.st = 0 ∧ (event .tick s0).1 = s0 := by decide

theorem test_T93_key_write : (event (.keyWrite 0x0880) s0).1.keyDown 7 = true ∧
    (event (.keyWrite 0x0880) s0).1.keyDown 0xB = true ∧ (event (.keyWrite 0x0880) s0).1.keyDown 6 = false := by
  decide

theorem test_T94_load : event (.load 0xFFF [7]) s0 = (poke s0 0xFFF [7], .ok) ∧
    event (.load 0xFFF [7, 7]) s0 = (s0, .fault (.loadError 0xFFF 2)) ∧ event (.load 0x200 []) s0 = (s0, .ok) := by
  decide

theorem test_T94_load_bound (b : List Byte) : (b.length = 3584 → loadTooLong 0x200 b = false) ∧
    (b.length = 3585 → loadTooLong 0x200 b = true) := by
  constructor <;> intro h <;> simp [loadTooLong, h]

theorem test_T95_reset :
    (event .reset (poke { s0.setV 3 9 with pc := 0x212, keys := 0x0880, stack := [0x206] } 0x200 [0x60])).1 = s0 := by
  decide

/-- D13's order: cell (5, 1) is index 64 + 5. -/
theorem test_display_flat_order : (lit [(5, 1)]).flat 69 = true ∧ (lit [(5, 1)]).flat 5 = false := by decide

/-! ### Witnesses: for every statement with hypotheses, states and operands that meet them, clause by clause -/

/-- A state with a full stack of 16, at the last address a fetch succeeds from. -/
def full : State := { s0 with pc := 0xFFE, stack := List.replicate 16 0x202 }

theorem witness_DecodeOfEncode : (Instr.sys 0x0E1).wf = true ∧ (Instr.drw 15 0 15).wf = true := by decide

theorem witness_EncodeOfDecode : decodeWord 0x0FFF = .ok (.sys 0xFFF) ∧ decodeWord 0xFF65 = .ok (.ldRegs 15) := by
  decide

theorem witness_IllegalWordsAreExactly :
    (family 0x5121 = 0x5 ∧ fieldN 0x5121 ≠ 0) ∧ (family 0x9125 = 0x9 ∧ fieldN 0x9125 ≠ 0) ∧
    (family 0x812F = 0x8 ∧ fieldN 0x812F ∈ [0x8#4, 0x9#4, 0xA#4, 0xB#4, 0xC#4, 0xD#4, 0xF#4]) ∧
    (family 0xE1A0 = 0xE ∧ fieldNN 0xE1A0 ∉ [0x9E#8, 0xA1#8]) ∧
    (family 0xF166 = 0xF ∧
      fieldNN 0xF166 ∉ [0x07#8, 0x0A#8, 0x15#8, 0x18#8, 0x1E#8, 0x29#8, 0x33#8, 0x55#8, 0x65#8]) := by decide

theorem witness_StepRunsDecodedInstruction :
    (full.withFetchWord 16 0x6A01).pc.toNat ≤ 0xFFE ∧
    decode (full.withFetchWord 16 0x6A01).fetchBytes = .ok (.ldImm 10 1, []) ∧
    decode (full.withFetchWord 16 0x5121).fetchBytes = .error (.unmatchedFamily5 0x5121) := by decide

theorem witness_DecodeFailureExactly :
    step (full.withFetchWord 16 0x5121) = .fault (.decodeFailure 0xFFE 0x5121) ∧
    firstRow (full.withFetchWord 16 0x5121).fetchWord = none := ⟨rfl, by decide⟩

theorem witness_StackUnderflowExactly : exec .ret { s0 with pc := 0x210 } = .fault (.stackUnderflow 0x20E 0x00EE) := rfl

theorem witness_FaultRecordNamesInstruction :
    step (full.withFetchWord 16 0x2400) = .fault (.stackOverflow 0xFFE 0x2400) ∧
    step { s0 with pc := 0xFFF } = .fault (.fetchOutOfRange 0xFFF) ∧
    (event (.load 0xFFF [1, 2]) s0).2 = .fault (.loadError 0xFFF 2) := ⟨rfl, rfl, rfl⟩

theorem witness_StepFaultsAreExactly :
    0xFFE < ({ s0 with pc := 0xFFF } : State).pc.toNat ∧ full.pc.toNat ≤ 0xFFE ∧
    decodeWord (full.withFetchWord 16 0x5121).fetchWord = .error (.unmatchedFamily5 0x5121) ∧
    (decodeWord (s0.withFetchWord 16 0x00EE).fetchWord = .ok .ret ∧ (s0.withFetchWord 16 0x00EE).stack = []) ∧
    (decodeWord (full.withFetchWord 16 0x2400).fetchWord = .ok (.call 0x400) ∧
      full.params.stackDepth = some full.stack.length) ∧
    (decodeWord (full.withFetchWord 16 0x00EE).fetchWord = .ok .ret ∧ full.stack ≠ []) ∧
    (decodeWord (s0.withFetchWord 16 0x2400).fetchWord = .ok (.call 0x400) ∧
      s0.params.stackDepth ≠ some s0.stack.length) := by decide

theorem witness_FaultLeavesState : step (s0.withFetchWord 16 0x00EE) = .fault (.stackUnderflow 0x200 0x00EE) ∧
    step { s0 with pc := 0xFFF } = .fault (.fetchOutOfRange 0xFFF) := ⟨rfl, rfl⟩

theorem witness_SysIsNoOp : (0x0E1 : Addr) ≠ 0x0E0 ∧ (0x0E1 : Addr) ≠ 0x0EE := by decide

/-- 15 of 16 entries and any number on an unbounded stack leave room; 16 of 16 do not. -/
theorem witness_CallPushesReturnAddress :
    ({ s0 with stack := List.replicate 15 0x202 } : State).params.stackDepth ≠ some 15 ∧
    ({ full with params := { stackDepth := none, fontBase := 0 } } : State).params.stackDepth ≠ some full.stack.length ∧
    full.params.stackDepth = some full.stack.length := by decide

theorem witness_RetPopsNewestEntry : full.stack = 0x202 :: List.replicate 15 0x202 ∧ s0.stack = [] := by decide

theorem witness_CallThenRetReturns :
    exec (.call 0x20A) s0 = .next { s0 with pc := 0x20A, stack := [0x200] } ∧
    ({ s0 with stack := [0x200] } : State).stack = [0x200] := ⟨rfl, rfl⟩

/-- Both outcomes of each skip, by equality alone. -/
theorem witness_ImmediateSkips : ((s0.setV 3 0x42).getV 3).toNat = (0x42 : Byte).toNat ∧
    ((s0.setV 3 0x42).getV 3).toNat ≠ (0x43 : Byte).toNat := by decide

theorem witness_RegisterSkips : (s0.getV 3).toNat = (s0.getV 4).toNat ∧
    ((s0.setV 3 1).getV 3).toNat ≠ ((s0.setV 3 1).getV 4).toNat ∧ (3 : Reg) = 3 := by decide

theorem witness_KeySkips :
    ({ s0 with keys := 0x8000 } : State).keys.getLsbD (((s0.setV 1 0xFF).getV 1).toNat % 16) = true ∧
    s0.keys.getLsbD ((s0.getV 1).toNat % 16) = false := by decide

/-- A sum of 255 carries nothing and one of 256 carries, with a destination other than VF. -/
theorem witness_AddSetsCarry : (14 : Reg) ≠ 15 ∧ (0xFF : Byte).toNat + (0x00 : Byte).toNat ≤ 255 ∧
    (0xFF : Byte).toNat + (0x01 : Byte).toNat > 255 := by decide

theorem witness_SubtractSetsNoBorrow : (14 : Reg) ≠ 15 ∧ ¬(7 : Byte).toNat > (7 : Byte).toNat ∧
    (8 : Byte).toNat > (7 : Byte).toNat := by decide

theorem witness_ReverseSubtractSetsNoBorrow : (0 : Reg) ≠ 15 ∧ ¬(0xFF : Byte).toNat > (0xFF : Byte).toNat ∧
    (0xFF : Byte).toNat > (0xFE : Byte).toNat := by decide

theorem witness_ShiftsReadVy : (14 : Reg) ≠ 15 := by decide

theorem witness_RandomByteIsMasked : 7 < 8 ∧ (0x80 : Byte).getLsbD 7 = true ∧ (0x80 : Byte).getLsbD 0 = false := by
  decide

/-- The greatest legal FONT_BASE. -/
theorem witness_GlyphAddress :
    ({ s0 with params := { stackDepth := some 1, fontBase := 0x1B0 } } : State).params.wf ∧ s0.params.wf := by decide

theorem witness_RegistersStored : (3 : Reg) ≤ 3 ∧ (0 : Reg) ≤ 3 := by decide

theorem witness_RegistersLoaded : (3 : Reg) ≤ 3 ∧ (3 : Reg) < 4 := by decide

theorem witness_StoreThenLoadRestoresRegisters :
    ∃ t, exec (.stRegs 15) { s0 with i := 0xFF8 } = .next t ∧ ({ t with i := 0xFF8 } : State).mem = t.mem ∧
      ({ t with i := 0xFF8 } : State).i = ({ s0 with i := 0xFF8 } : State).i := ⟨_, rfl, rfl, rfl⟩

/-- FX55 to 0xFFE, 0xFFF and 0x000 and a fetch of the last word, of word 0 (its low byte not stored to) and of the word
whose low byte alone is stored; FX33 the same; a LOAD of the last word. -/
theorem witness_StoreIsSeenByFetch :
    (∃ t, exec (.stRegs 2) { s0 with i := 0xFFE } = .next t ∧ ({ t with pc := 0xFFE } : State).mem = t.mem) ∧
    (∃ t, exec (.ldB 2) { s0 with i := 0xFFE } = .next t ∧ ({ t with pc := 0xFFE } : State).mem = t.mem) ∧
    storedAddrs { s0 with i := 0xFFE } (.stRegs 2) = [0xFFE, 0xFFF, 0x000] ∧
    storedAddrs { s0 with i := 0xFFE } (.ldB 2) = [0xFFE, 0xFFF, 0x000] ∧
    (0xFFE : Word).toNat = 0xFFE ∧ (0xFFE : Word).toNat + 1 = 0xFFF ∧ (0xFFD : Word).toNat + 1 = 0xFFE ∧
    (0xFFD : Word).toNat ∉ [0xFFE, 0xFFF, 0x000] ∧ (0x000 : Word).toNat + 1 ∉ [0xFFE, 0xFFF, 0x000] ∧
    (0xFFE : Addr).toNat + [(0x12 : Byte), 0x08].length ≤ 4096 ∧
    (0xFFE : Word).toNat + 1 = (0xFFE : Addr).toNat + 1 :=
  ⟨⟨_, rfl, rfl⟩, ⟨_, rfl, rfl⟩, by decide⟩

/-- T59c: the word FX55 writes at the next PC is the word fetched. -/
theorem test_T59c_store_seen_by_next_fetch :
    (run { (s0.setV 0 0x12).setV 1 0x08 with i := 0x208, pc := 0x206 } 0xF155).fetchWord = 0x1208 := by decide

/-- A state with one sprite pixel, at (0, 0). -/
def dot : State := poke { s0 with i := 0x300 } 0x300 [0x80]

theorem dot_pixel : SpritePixel dot 0 0 1 0 0 := ⟨0, 0, by decide⟩

theorem witness_DrawFlipsSpritePixels : SpritePixel dot 0 0 1 0 0 ∧ ¬SpritePixel dot 0 0 1 0 1 := by
  refine ⟨dot_pixel, ?_⟩
  rintro ⟨r, c, hr, -, -, -, hy⟩
  have hr0 : r = 0 := by simpa using hr
  subst hr0
  exact absurd hy (by decide)

theorem witness_DrawSetsCollisionFlag :
    (∃ px py, SpritePixel { dot with disp := lit [(0, 0)] } 0 0 1 px py ∧
      ({ dot with disp := lit [(0, 0)] } : State).disp.cell px py = true) ∧
    (¬∃ px py, SpritePixel dot 0 0 1 px py ∧ dot.disp.cell px py = true) ∧ (0 : BitVec 4) = 0 := by
  refine ⟨⟨0, 0, dot_pixel, by decide⟩, ?_, rfl⟩
  rintro ⟨px, py, -, h⟩
  revert px py
  decide

theorem witness_DrawTwiceRestoresDisplay :
    ∃ t w, exec (.drw 0 0 1) dot = .next t ∧ exec (.drw 0 0 1) { t with v := dot.v } = .next w ∧
      ∃ px py, SpritePixel dot 0 0 1 px py ∧ dot.disp.cell px py = false :=
  ⟨_, _, rfl, rfl, 0, 0, dot_pixel, by decide⟩

theorem witness_KeyWaitStallsOrTakesLeastKey :
    (∀ k : Reg, s0.keys.getLsbD k.val = false) ∧
    (({ s0 with keys := 0x8000 } : State).keys.getLsbD (15 : Reg).val = true ∧
      ∀ j : Reg, j < 15 → ({ s0 with keys := 0x8000 } : State).keys.getLsbD j.val = false) ∧
    (({ s0 with keys := 0x8001 } : State).keys.getLsbD (0 : Reg).val = true ∧
      ∀ j : Reg, j < 0 → ({ s0 with keys := 0x8001 } : State).keys.getLsbD j.val = false) := by decide

theorem witness_StalledStepChangesNothing :
    (full.withFetchWord 16 0xF10A).pc.toNat ≤ 0xFFE ∧ decodeWord (full.withFetchWord 16 0xF10A).fetchWord = .ok (.ldVxK 1) ∧
    ∀ k : Reg, (full.withFetchWord 16 0xF10A).keyDown k = false := by decide

/-- An image up to the last cell, with an address on either side of it. -/
theorem witness_LoadWritesImage : (0xFFF : Addr).toNat + [(7 : Byte)].length ≤ 4096 ∧ 0 < [(7 : Byte)].length ∧
    (0xFFE < (0xFFF : Addr).toNat ∨ (0xFFF : Addr).toNat + [(7 : Byte)].length ≤ 0xFFE) ∧
    (4096 < (0xFFF : Addr).toNat ∨ (0xFFF : Addr).toNat + [(7 : Byte)].length ≤ 4096) := by decide

theorem witness_LoadNeverTruncates : 4096 < (0xFFF : Addr).toNat + [(7 : Byte), 7].length ∧
    (event (.load 0xFFF [7, 7]) s0).2 = .fault (.loadError 0xFFF 2) := by decide

theorem witness_HostReadsSeeState : 64 * (31 : Fin 32).val + (63 : Fin 64).val < 2048 := by decide

theorem witness_OnlyListedWritersWrite : ∃ t, exec (.stRegs 15) { s0 with i := 0xFFF } = .next t := ⟨_, rfl⟩

theorem witness_OnlyDestinationsWritten : ∃ t, exec (.addReg 14 15) (s0.setV 14 0xFF) = .next t := ⟨_, rfl⟩

theorem witness_OnlyAddressedBytesStored : ∃ t, exec (.ldB 3) { s0 with i := 0xFFF } = .next t := ⟨_, rfl⟩

theorem witness_NoInstructionReadsSoundTimer :
    (∃ t, exec (.ldStVx 3) s0 = .next t) ∧ exec .ret s0 = .fault (.stackUnderflow 0x1FE 0x00EE) := ⟨⟨_, rfl⟩, rfl⟩

theorem witness_OnlyRndObservesRandomSource :
    (∀ x nn, Instr.ldB 3 ≠ .rnd x nn) ∧ (∃ t, exec (.ldB 3) s0 = .next t) ∧ (∀ x nn, Instr.ret ≠ .rnd x nn) ∧
    exec .ret s0 = .fault (.stackUnderflow 0x1FE 0x00EE) :=
  ⟨fun _ _ h => (by cases h), ⟨_, rfl⟩, fun _ _ h => (by cases h), rfl⟩

/-- FX15 raises DT and lowers it; TICK and RESET lower it. -/
theorem witness_DelayTimerOnlyRisesByWrite :
    s0.dt.toNat < (run (s0.setV 0 3) 0xF015).dt.toNat ∧ (run { s0 with dt := 3 } 0xF015).dt.toNat < (3 : Byte).toNat ∧
    (event .tick { s0 with dt := 1 }).1.dt.toNat < (1 : Byte).toNat ∧
    (event .reset { s0 with dt := 1 }).1.dt.toNat < (1 : Byte).toNat ∧ HostEvent.tick = .tick := by decide

theorem full_inv (w : Nat) (hm : (full.withFetchWord 16 w).mem.wf = true) : Inv (full.withFetchWord 16 w) where
  mem_wf := hm
  params_wf := (by decide : Params.recommended.wf)
  stack_le := by
    intro d hd
    cases hd
    exact Nat.le_refl 16
  saved_range := by
    intro v hv
    cases List.eq_of_mem_replicate (show v ∈ List.replicate 16 0x202 from hv)
    decide
  pc_le := show 0xFFE ≤ 0x10FE by decide

/-- The full stack at the last fetchable address, about to return. -/
theorem witness_StepKeepsInvariant :
    Inv (full.withFetchWord 16 0x00EE) ∧ ∃ t, step (full.withFetchWord 16 0x00EE) = .next t :=
  ⟨full_inv _ (by decide), _, rfl⟩

theorem witness_EventsKeepInvariant : Inv (full.withFetchWord 16 0x2400) := full_inv _ (by decide)

end Sys2Proof.Tests
end

section
/-!
PROOFS. The fields of a word as arithmetic on its two bytes (R53, R81), and O6: the fetch is big-endian.
-/

namespace Sys2Proof

/-- A word is read from its two bytes with the lower address as the high byte. -/
theorem toNat_eq_bytes (w : Word) : w.toNat = 256 * (highByte w).toNat + (lowByte w).toNat := by
  rw [← joinBytes_toNat, joinBytes_bytes]

/-- The family is the high nibble of the byte at the lower address. -/
theorem family_toNat_eq_highByte (w : Word) : (family w).toNat = (highByte w).toNat / 16 := by
  simp only [family, highByte, BitVec.extractLsb'_toNat, Nat.shiftRight_eq_div_pow]
  omega

/-- X is the low nibble of the byte at the lower address. -/
theorem fieldX_val_eq_highByte (w : Word) : (fieldX w).val = (highByte w).toNat % 16 := by
  simp only [fieldX, highByte, BitVec.val_toFin, BitVec.extractLsb'_toNat, Nat.shiftRight_eq_div_pow]
  omega

/-- NN is the byte at the higher address. -/
theorem fieldNN_eq_lowByte (w : Word) : fieldNN w = lowByte w := rfl

/-- Y is the high nibble of the byte at the higher address. -/
theorem fieldY_val_eq_lowByte (w : Word) : (fieldY w).val = (lowByte w).toNat / 16 := by
  simp only [fieldY, lowByte, BitVec.val_toFin, BitVec.extractLsb'_toNat, Nat.shiftRight_eq_div_pow]
  omega

/-- N is the low nibble of the byte at the higher address. -/
theorem fieldN_toNat_eq_lowByte (w : Word) : (fieldN w).toNat = (lowByte w).toNat % 16 := by
  simp only [fieldN, lowByte, BitVec.extractLsb'_toNat, Nat.shiftRight_eq_div_pow]
  omega

end Sys2Proof

namespace Sys2Proof.Machine

/-- Settles O6: the word's value is that of the two joined bytes, and each field is a part of the one byte it lies in,
which `State.highByte_fetchWord` and `State.lowByte_fetchWord` name. -/
theorem fetchIsBigEndian : Obligations.FetchIsBigEndian := by
  intro s
  rw [← s.highByte_fetchWord, ← s.lowByte_fetchWord]
  exact ⟨toNat_eq_bytes _, family_toNat_eq_highByte _, fieldX_val_eq_highByte _, fieldNN_eq_lowByte _,
    fieldY_val_eq_lowByte _, fieldN_toNat_eq_lowByte _⟩

end Sys2Proof.Machine
end

section
/-!
PROOFS. What STEP does with the bytes a fetch reads (R83, R84, R176), and O7: PC is advanced before decode and execute.
-/

namespace Sys2Proof.Machine

/-- A fetch that decodes runs its instruction on the advanced state. -/
theorem step_of_decode_ok {s : State} {i : Instr} {rest : List Byte} (hpc : s.pc.toNat ≤ 0xFFE)
    (hd : decode s.fetchBytes = .ok (i, rest)) : step s = exec i s.advance := by
  rw [step, if_pos (s.canFetch_iff.mpr hpc), hd]

/-- A fetch that decodes to nothing faults with the word and its address, whatever the decoder's reason. -/
theorem step_of_decode_error {s : State} {e : DecodeError} (hpc : s.pc.toNat ≤ 0xFFE)
    (hd : decode s.fetchBytes = .error e) : step s = .fault (.decodeFailure s.pc s.fetchWord) := by
  rw [step, if_pos (s.canFetch_iff.mpr hpc), hd, raiseFault]

/-- The event STEP leaves a faulting step's state to `State.afterFault` (R176). -/
theorem event_step_of_fault {s : State} {f : Fault} (h : step s = .fault f) :
    event .step s = (s.afterFault f, .fault f) := by
  rw [event, stepEvent, h]

/-- A decode failure leaves the advanced state (R83, R176). -/
@[simp] theorem State.afterFault_decodeFailure (s : State) (a w : Word) :
    s.afterFault (.decodeFailure a w) = s.advance := rfl

/-- Settles O7: the bytes at PC and PC + 1 are `State.fetchBytes`, the state with PC + 2 is `State.advance`. -/
theorem stepRunsDecodedInstruction : Obligations.StepRunsDecodedInstruction := by
  intro s hpc
  refine ⟨fun i hd => step_of_decode_ok hpc hd, fun e hd => ?_⟩
  rw [event_step_of_fault (step_of_decode_error hpc hd), State.afterFault_decodeFailure, State.advance]

end Sys2Proof.Machine
end

section
/-!
PROOFS. A jump: the word of JP, the value of a zero-extended address, the frame of a change of PC, and O14 (R102).
-/

namespace Sys2Proof

/-- A word of family 1 is JP to its own NNN (R85). -/
theorem decodeWord_formatA_jp (nnn : Addr) : decodeWord (formatA 0x1#4 nnn) = .ok (.jp nnn) := by
  simp only [decodeWord, family_formatA, fieldNNN_formatA]

end Sys2Proof

namespace Sys2Proof.Machine

/-- Zero-extension keeps the value of an address. -/
@[simp] theorem zextAddr_toNat (nnn : Addr) : (zextAddr nnn).toNat = nnn.toNat :=
  BitVec.toNat_setWidth_of_le (by decide)

/-- A change of PC agrees with the start state on every other component. -/
theorem State.onlyChanges_jump (s : State) (w : Word) : OnlyChanges [.pc] s (s.jump w) := by
  intro c hc
  cases c
  case pc => exact absurd List.mem_cons_self hc
  all_goals simp [Component.Agree]

/-- JP is the jump to the zero-extended NNN (R102). -/
theorem exec_jp (nnn : Addr) (s : State) : exec (.jp nnn) s = .next (s.jump (zextAddr nnn)) := rfl

/-- Settles O14: JP always jumps, to a target that has NNN's value, and a jump changes PC alone. -/
theorem jumpSetsPc : Obligations.JumpSetsPc := by
  intro nnn s
  exact ⟨decodeWord_formatA_jp nnn, s.jump (zextAddr nnn), exec_jp nnn s, zextAddr_toNat nnn,
    s.onlyChanges_jump (zextAddr nnn)⟩

end Sys2Proof.Machine
end

section
/-!
PROOFS. The skips that compare registers: their words, the PC a skip leaves, and O19 and O20 (R110 to R113).
-/

namespace Sys2Proof

/-- A word of family 3 is SE_IMM on its own X and NN (R85). -/
theorem decodeWord_formatXI_seImm (x : Reg) (nn : Byte) : decodeWord (formatXI 0x3#4 x nn) = .ok (.seImm x nn) := by
  simp only [decodeWord, family_formatXI, fieldX_formatXI, fieldNN_formatXI]

/-- A word of family 4 is SNE_IMM on its own X and NN (R85). -/
theorem decodeWord_formatXI_sneImm (x : Reg) (nn : Byte) : decodeWord (formatXI 0x4#4 x nn) = .ok (.sneImm x nn) := by
  simp only [decodeWord, family_formatXI, fieldX_formatXI, fieldNN_formatXI]

/-- A word of family 5 with low nibble 0 is SE_REG on its own X and Y (R85, R89). -/
theorem decodeWord_formatXYN_seReg (x y : Reg) : decodeWord (formatXYN 0x5#4 x y 0x0#4) = .ok (.seReg x y) := by
  simp only [decodeWord, family_formatXYN, fieldX_formatXYN, fieldY_formatXYN, fieldN_formatXYN,
    BitVec.ofNat_eq_ofNat, if_true]

/-- A word of family 9 with low nibble 0 is SNE_REG on its own X and Y (R85, R89). -/
theorem decodeWord_formatXYN_sneReg (x y : Reg) : decodeWord (formatXYN 0x9#4 x y 0x0#4) = .ok (.sneReg x y) := by
  simp only [decodeWord, family_formatXYN, fieldX_formatXYN, fieldY_formatXYN, fieldN_formatXYN,
    BitVec.ofNat_eq_ofNat, if_true]

end Sys2Proof

namespace Sys2Proof.Machine

/-- A skip is a jump past the next instruction or to it, so it has a jump's frame. -/
theorem State.skipIf_eq_jump (s : State) (c : Bool) : s.skipIf c = s.jump (if c then s.pc + 2 else s.pc) := by
  cases c <;> rfl

/-- A skip, taken or not, changes PC alone. -/
theorem State.onlyChanges_skipIf (s : State) (c : Bool) : OnlyChanges [.pc] s (s.skipIf c) := by
  rw [State.skipIf_eq_jump]
  exact s.onlyChanges_jump _

/-- A taken skip adds 2 to PC modulo 65536. -/
theorem State.skipIf_pc_toNat (s : State) (c : Bool) :
    (s.skipIf c).pc.toNat = if c then (s.pc.toNat + 2) % 65536 else s.pc.toNat := by
  cases c
  case false => rfl
  case true => exact BitVec.toNat_add s.pc 2

/-- A skip on equality is taken exactly when the two bytes have the same value. -/
theorem State.skipIf_beq_pc_toNat (s : State) (a b : Byte) :
    (s.skipIf (a == b)).pc.toNat = if a.toNat = b.toNat then (s.pc.toNat + 2) % 65536 else s.pc.toNat := by
  simp only [State.skipIf_pc_toNat, beq_iff_eq, BitVec.toNat_inj]

/-- A skip on inequality is the complement of a skip on equality. -/
theorem State.skipIf_bne_pc_toNat (s : State) (a b : Byte) :
    (s.skipIf (a != b)).pc.toNat = if a.toNat = b.toNat then s.pc.toNat else (s.pc.toNat + 2) % 65536 := by
  simp only [State.skipIf_pc_toNat, bne_iff_ne, BitVec.toNat_inj, ite_not]

/-- SE_IMM skips if V[X] is the immediate (R110). -/
theorem exec_seImm (x : Reg) (nn : Byte) (s : State) : exec (.seImm x nn) s = .next (s.skipIf (s.getV x == nn)) := rfl

/-- SNE_IMM skips if V[X] is not the immediate (R111). -/
theorem exec_sneImm (x : Reg) (nn : Byte) (s : State) : exec (.sneImm x nn) s = .next (s.skipIf (s.getV x != nn)) := rfl

/-- SE_REG skips if V[X] is V[Y] (R112). -/
theorem exec_seReg (x y : Reg) (s : State) : exec (.seReg x y) s = .next (s.skipIf (s.getV x == s.getV y)) := rfl

/-- SNE_REG skips if V[X] is not V[Y] (R113). -/
theorem exec_sneReg (x y : Reg) (s : State) : exec (.sneReg x y) s = .next (s.skipIf (s.getV x != s.getV y)) := rfl

/-- Settles O19: both are a skip, on V[X] equal and not equal to the immediate. -/
theorem immediateSkips : Obligations.ImmediateSkips := by
  intro x nn s
  refine ⟨decodeWord_formatXI_seImm x nn, ⟨_, exec_seImm x nn s, s.onlyChanges_skipIf _, ?equal⟩,
    decodeWord_formatXI_sneImm x nn, ⟨_, exec_sneImm x nn s, s.onlyChanges_skipIf _, ?notEqual⟩⟩
  case equal => exact s.skipIf_beq_pc_toNat (s.getV x) nn
  case notEqual => exact s.skipIf_bne_pc_toNat (s.getV x) nn

/-- Settles O20: both are a skip, on V[X] equal and not equal to V[Y]; a register equals itself. -/
theorem registerSkips : Obligations.RegisterSkips := by
  intro x y s
  refine ⟨decodeWord_formatXYN_seReg x y, ⟨_, exec_seReg x y s, s.onlyChanges_skipIf _, ?sameSkips, ?equal⟩,
    decodeWord_formatXYN_sneReg x y, ⟨_, exec_sneReg x y s, s.onlyChanges_skipIf _, ?sameStays, ?notEqual⟩⟩
  case sameSkips => rintro rfl; simp
  case equal => exact s.skipIf_beq_pc_toNat (s.getV x) (s.getV y)
  case sameStays => rintro rfl; simp
  case notEqual => exact s.skipIf_bne_pc_toNat (s.getV x) (s.getV y)

end Sys2Proof.Machine
end

section
/-!
PROOFS. The loads of one register and ADD_IMM: their words, the frame of a register write, and O22 and O23 (R120 to
R122).
-/

namespace Sys2Proof

/-- A word of family 6 is LD_IMM on its own X and NN (R85). -/
theorem decodeWord_formatXI_ldImm (x : Reg) (nn : Byte) : decodeWord (formatXI 0x6#4 x nn) = .ok (.ldImm x nn) := by
  simp only [decodeWord, family_formatXI, fieldX_formatXI, fieldNN_formatXI]

/-- A word of family 7 is ADD_IMM on its own X and NN (R85). -/
theorem decodeWord_formatXI_addImm (x : Reg) (nn : Byte) : decodeWord (formatXI 0x7#4 x nn) = .ok (.addImm x nn) := by
  simp only [decodeWord, family_formatXI, fieldX_formatXI, fieldNN_formatXI]

/-- A word of family 8 is left to the family's own decoder (R85, R88). -/
theorem decodeWord_formatXYN_family8 (x y : Reg) (n : BitVec 4) :
    decodeWord (formatXYN 0x8#4 x y n) = decode8 (formatXYN 0x8#4 x y n) := by
  simp only [decodeWord, family_formatXYN]

/-- A word of family 8 with low nibble 0 is LD_REG on its own X and Y (R88). -/
theorem decodeWord_formatXYN_ldReg (x y : Reg) : decodeWord (formatXYN 0x8#4 x y 0x0#4) = .ok (.ldReg x y) := by
  simp only [decodeWord_formatXYN_family8, decode8, fieldN_formatXYN, fieldX_formatXYN, fieldY_formatXYN]

end Sys2Proof

namespace Sys2Proof.Machine

/-- Agreement on a component is transitive. -/
theorem Component.Agree.trans {c : Component} {s t u : State} (hst : c.Agree s t) (htu : c.Agree t u) :
    c.Agree s u := by
  cases c
  case v | mem => exact fun a => (htu a).trans (hst a)
  case disp => exact fun x y => (htu x y).trans (hst x y)
  all_goals exact Eq.trans htu hst

/-- Two changes in a row keep what each of them keeps. -/
theorem OnlyChanges.trans {changed : List Component} {s t u : State} (hst : OnlyChanges changed s t)
    (htu : OnlyChanges changed t u) : OnlyChanges changed s u :=
  fun c hc => (hst c hc).trans (htu c hc)

/-- A register write agrees with the start state on every component but the registers. -/
theorem State.onlyChanges_setV (s : State) (x : Reg) (b : Byte) : OnlyChanges [.v] s (s.setV x b) := by
  intro c hc
  cases c
  case v => exact absurd List.mem_cons_self hc
  all_goals simp [Component.Agree]

/-- A register write keeps every other register. -/
theorem State.onlyWritesRegs_setV (s : State) (x : Reg) (b : Byte) : OnlyWritesRegs [x] s (s.setV x b) :=
  fun _ hr => s.getV_setV_other (List.ne_of_not_mem_cons hr) b

/-- LD_IMM writes the immediate to V[X] (R120). -/
theorem exec_ldImm (x : Reg) (nn : Byte) (s : State) : exec (.ldImm x nn) s = .next (s.setV x nn) := rfl

/-- ADD_IMM writes the sum to V[X] and no flag (R121). -/
theorem exec_addImm (x : Reg) (nn : Byte) (s : State) : exec (.addImm x nn) s = .next (s.setV x (s.getV x + nn)) := rfl

/-- LD_REG writes V[Y] to V[X] (R122). -/
theorem exec_ldReg (x y : Reg) (s : State) : exec (.ldReg x y) s = .next (s.setV x (s.getV y)) := rfl

/-- Settles O22: both are one register write, of the immediate and of V[Y]. -/
theorem registerLoads : Obligations.RegisterLoads := by
  intro x y nn s
  exact ⟨decodeWord_formatXI_ldImm x nn,
    ⟨_, exec_ldImm x nn s, s.getV_setV_same x _, s.onlyWritesRegs_setV x _, s.onlyChanges_setV x _⟩,
    decodeWord_formatXYN_ldReg x y,
    ⟨_, exec_ldReg x y s, s.getV_setV_same x _, s.onlyWritesRegs_setV x _, s.onlyChanges_setV x _⟩⟩

/-- Settles O23: ADD_IMM is one register write, of a sum of bytes, which is the sum modulo 256. -/
theorem addImmediateWraps : Obligations.AddImmediateWraps := by
  intro x nn s
  refine ⟨decodeWord_formatXI_addImm x nn, _, exec_addImm x nn s, ?sum, s.onlyWritesRegs_setV x _,
    s.onlyChanges_setV x _⟩
  case sum => rw [State.getV_setV_same, BitVec.toNat_add]

end Sys2Proof.Machine
end

section
/-!
PROOFS. The arithmetic that writes VF: the words, the flags as arithmetic on the operands (R23), R24's write order
register by register, and O25, O26, O27 and O28 (R126 to R130).
-/

namespace Sys2Proof

/-- A word of family 8 with low nibble 4 is ADD_REG on its own X and Y (R88). -/
theorem decodeWord_formatXYN_addReg (x y : Reg) : decodeWord (formatXYN 0x8#4 x y 0x4#4) = .ok (.addReg x y) := by
  simp only [decodeWord_formatXYN_family8, decode8, fieldN_formatXYN, fieldX_formatXYN, fieldY_formatXYN]

/-- A word of family 8 with low nibble 5 is SUB on its own X and Y (R88). -/
theorem decodeWord_formatXYN_sub (x y : Reg) : decodeWord (formatXYN 0x8#4 x y 0x5#4) = .ok (.sub x y) := by
  simp only [decodeWord_formatXYN_family8, decode8, fieldN_formatXYN, fieldX_formatXYN, fieldY_formatXYN]

/-- A word of family 8 with low nibble 6 is SHR on its own X and Y (R88). -/
theorem decodeWord_formatXYN_shr (x y : Reg) : decodeWord (formatXYN 0x8#4 x y 0x6#4) = .ok (.shr x y) := by
  simp only [decodeWord_formatXYN_family8, decode8, fieldN_formatXYN, fieldX_formatXYN, fieldY_formatXYN]

/-- A word of family 8 with low nibble 7 is SUBN on its own X and Y (R88). -/
theorem decodeWord_formatXYN_subn (x y : Reg) : decodeWord (formatXYN 0x8#4 x y 0x7#4) = .ok (.subn x y) := by
  simp only [decodeWord_formatXYN_family8, decode8, fieldN_formatXYN, fieldX_formatXYN, fieldY_formatXYN]

/-- A word of family 8 with low nibble 0xE is SHL on its own X and Y (R88). -/
theorem decodeWord_formatXYN_shl (x y : Reg) : decodeWord (formatXYN 0x8#4 x y 0xE#4) = .ok (.shl x y) := by
  simp only [decodeWord_formatXYN_family8, decode8, fieldN_formatXYN, fieldX_formatXYN, fieldY_formatXYN]

end Sys2Proof

namespace Sys2Proof.Machine

/-! ### The flags and the difference as arithmetic -/

/-- The carry is 1 exactly when the exact sum passes 255 (R126). -/
theorem carryFlag_eq (a b : Byte) : carryFlag a b = if a.toNat + b.toNat > 255 then 1 else 0 := by
  simp only [carryFlag, flagByte, decide_eq_true_eq, gt_iff_lt]

/-- The no-borrow flag is 0 exactly when the byte taken away is the greater (R127, R129). -/
theorem noBorrowFlag_eq (a b : Byte) : noBorrowFlag a b = if b.toNat > a.toNat then 0 else 1 := by
  simp only [noBorrowFlag, flagByte, decide_eq_true_eq, ← Nat.not_lt, ite_not, gt_iff_lt]

/-- The value of a flag byte is the value of the truth it reports. -/
theorem flagByte_toNat (c : Bool) : (flagByte c).toNat = c.toNat := by
  cases c <;> rfl

/-- The bit shifted out to the right is the remainder by 2 (R128). -/
theorem lowBitFlag_toNat (b : Byte) : (lowBitFlag b).toNat = b.toNat % 2 := by
  rw [lowBitFlag, flagByte_toNat, BitVec.getLsbD, Nat.toNat_testBit, Nat.pow_zero, Nat.div_one]

/-- The bit shifted out to the left is the quotient by 128 (R130). -/
theorem highBitFlag_toNat (b : Byte) : (highBitFlag b).toNat = b.toNat / 128 := by
  have hlt : b.toNat < 256 := b.isLt
  rw [highBitFlag, flagByte_toNat, BitVec.getLsbD, Nat.toNat_testBit]
  omega

/-- The difference of two bytes is the exact difference modulo 256 (R132). -/
theorem toNat_byte_sub (a b : Byte) : ((a - b).toNat : Int) = ((a.toNat : Int) - b.toNat) % 256 := by
  have hlt : b.toNat < 256 := b.isLt
  rw [BitVec.toNat_sub]
  omega

/-! ### R24's write order -/

section
variable (s : State) (x : Reg) (f b : Byte)

/-- The destination holds the result, VF as the destination too (R24). -/
@[simp] theorem State.getV_writeFlagThenResult_dest : (s.writeFlagThenResult x f b).getV x = b :=
  (s.setV flagReg f).getV_setV_same x b

/-- VF holds the flag when it is not the destination (R24). -/
theorem State.getV_writeFlagThenResult_flag (h : x ≠ 15) : (s.writeFlagThenResult x f b).getV 15 = f := by
  rw [State.getV_writeFlagThenResult, if_neg h.symm, if_pos rfl]

/-- No register is written but the destination and VF. -/
theorem State.onlyWritesRegs_writeFlagThenResult : OnlyWritesRegs [x, 15] s (s.writeFlagThenResult x f b) := by
  intro r hr
  obtain ⟨hx, hvf⟩ : r ≠ x ∧ r ≠ 15 := by simpa using hr
  rw [State.getV_writeFlagThenResult, if_neg hx, if_neg hvf]

/-- The two writes change the registers alone. -/
theorem State.onlyChanges_writeFlagThenResult : OnlyChanges [.v] s (s.writeFlagThenResult x f b) :=
  (s.onlyChanges_setV flagReg f).trans ((s.setV flagReg f).onlyChanges_setV x b)

end

/-! ### The instructions -/

/-- ADD_REG writes the carry, then the sum (R126). -/
theorem exec_addReg (x y : Reg) (s : State) : exec (.addReg x y) s =
    .next (s.writeFlagThenResult x (carryFlag (s.getV x) (s.getV y)) (s.getV x + s.getV y)) := rfl

/-- SUB writes the no-borrow flag, then V[X] - V[Y] (R127). -/
theorem exec_sub (x y : Reg) (s : State) : exec (.sub x y) s =
    .next (s.writeFlagThenResult x (noBorrowFlag (s.getV x) (s.getV y)) (s.getV x - s.getV y)) := rfl

/-- SHR writes the bit shifted out, then V[Y] shifted right (R128). -/
theorem exec_shr (x y : Reg) (s : State) : exec (.shr x y) s =
    .next (s.writeFlagThenResult x (lowBitFlag (s.getV y)) (s.getV y >>> 1)) := rfl

/-- SUBN writes the no-borrow flag, then V[Y] - V[X] (R129). -/
theorem exec_subn (x y : Reg) (s : State) : exec (.subn x y) s =
    .next (s.writeFlagThenResult x (noBorrowFlag (s.getV y) (s.getV x)) (s.getV y - s.getV x)) := rfl

/-- SHL writes the bit shifted out, then V[Y] shifted left (R130). -/
theorem exec_shl (x y : Reg) (s : State) : exec (.shl x y) s =
    .next (s.writeFlagThenResult x (highBitFlag (s.getV y)) (s.getV y <<< 1)) := rfl

/-- Settles O25: the destination reads back the sum of bytes, VF the carry. -/
theorem addSetsCarry : Obligations.AddSetsCarry := by
  intro x y s
  refine ⟨decodeWord_formatXYN_addReg x y, _, exec_addReg x y s, s.onlyWritesRegs_writeFlagThenResult x _ _,
    s.onlyChanges_writeFlagThenResult x _ _, ?sum, fun hx => ?carry⟩
  case sum => rw [State.getV_writeFlagThenResult_dest, BitVec.toNat_add]
  case carry => rw [s.getV_writeFlagThenResult_flag x _ _ hx, carryFlag_eq]

/-- Settles O26: the destination reads back V[X] - V[Y], VF the no-borrow flag. -/
theorem subtractSetsNoBorrow : Obligations.SubtractSetsNoBorrow := by
  intro x y s
  refine ⟨decodeWord_formatXYN_sub x y, _, exec_sub x y s, s.onlyWritesRegs_writeFlagThenResult x _ _,
    s.onlyChanges_writeFlagThenResult x _ _, ?difference, fun hx => ?noBorrow⟩
  case difference => rw [State.getV_writeFlagThenResult_dest, toNat_byte_sub]
  case noBorrow => rw [s.getV_writeFlagThenResult_flag x _ _ hx, noBorrowFlag_eq]

/-- Settles O27: as O26 with the operands exchanged. -/
theorem reverseSubtractSetsNoBorrow : Obligations.ReverseSubtractSetsNoBorrow := by
  intro x y s
  refine ⟨decodeWord_formatXYN_subn x y, _, exec_subn x y s, s.onlyWritesRegs_writeFlagThenResult x _ _,
    s.onlyChanges_writeFlagThenResult x _ _, ?difference, fun hx => ?noBorrow⟩
  case difference => rw [State.getV_writeFlagThenResult_dest, toNat_byte_sub]
  case noBorrow => rw [s.getV_writeFlagThenResult_flag x _ _ hx, noBorrowFlag_eq]

/-- Settles O28: the destination reads back V[Y] halved and doubled, VF the lowest and the highest bit of V[Y]. -/
theorem shiftsReadVy : Obligations.ShiftsReadVy := by
  intro x y s
  refine ⟨decodeWord_formatXYN_shr x y,
    ⟨_, exec_shr x y s, s.onlyWritesRegs_writeFlagThenResult x _ _, s.onlyChanges_writeFlagThenResult x _ _,
      ?half, fun hx => ?lowBit⟩,
    decodeWord_formatXYN_shl x y,
    ⟨_, exec_shl x y s, s.onlyWritesRegs_writeFlagThenResult x _ _, s.onlyChanges_writeFlagThenResult x _ _,
      ?double, fun hx => ?highBit⟩⟩
  case half => rw [State.getV_writeFlagThenResult_dest, BitVec.toNat_ushiftRight, Nat.shiftRight_eq_div_pow]
  case lowBit => rw [s.getV_writeFlagThenResult_flag x _ _ hx, lowBitFlag_toNat]
  case double => rw [State.getV_writeFlagThenResult_dest, BitVec.toNat_shiftLeft, Nat.shiftLeft_eq, Nat.mul_comm]
  case highBit => rw [s.getV_writeFlagThenResult_flag x _ _ hx, highBitFlag_toNat]

end Sys2Proof.Machine
end

section
/-!
PROOFS. The load of the address register: the word of LD_I, the frame of a change of I, and O30 (R140).
-/

namespace Sys2Proof

/-- A word of family 0xA is LD_I of its own NNN (R85). -/
theorem decodeWord_formatA_ldI (nnn : Addr) : decodeWord (formatA 0xA#4 nnn) = .ok (.ldI nnn) := by
  simp only [decodeWord, family_formatA, fieldNNN_formatA]

end Sys2Proof

namespace Sys2Proof.Machine

/-- A change of I agrees with the start state on every other component. -/
theorem State.onlyChanges_setI (s : State) (w : Word) : OnlyChanges [.i] s (s.setI w) := by
  intro c hc
  cases c
  case i => exact absurd List.mem_cons_self hc
  all_goals simp [Component.Agree]

/-- LD_I writes the zero-extended NNN to I (R140). -/
theorem exec_ldI (nnn : Addr) (s : State) : exec (.ldI nnn) s = .next (s.setI (zextAddr nnn)) := rfl

/-- Settles O30: LD_I is one write of I, of a word that has NNN's value, and a write of I changes I alone. -/
theorem loadIndexRegister : Obligations.LoadIndexRegister := by
  intro nnn s
  exact ⟨decodeWord_formatA_ldI nnn, s.setI (zextAddr nnn), exec_ldI nnn s, zextAddr_toNat nnn,
    s.onlyChanges_setI (zextAddr nnn)⟩

end Sys2Proof.Machine
end

section
/-!
PROOFS. The clearing of the display: the word of CLS, the frame of a change of DISP, the read of a display whose cells
are all alike, and O38 (R150).
-/

namespace Sys2Proof

/-- The word of CLS (R86). -/
theorem decodeWord_cls : decodeWord 0x00E0 = .ok .cls := rfl

end Sys2Proof

namespace Sys2Proof.Machine

/-- A change of DISP agrees with the start state on every other component. -/
theorem State.onlyChanges_setDisp (s : State) (d : Display) : OnlyChanges [.disp] s (s.setDisp d) := by
  intro c hc
  cases c
  case disp => exact absurd List.mem_cons_self hc
  all_goals simp [Component.Agree]

/-- A display whose cells all hold `b` reads as 2048 times `b` (R185). -/
theorem State.displayRead_eq_replicate {s : State} {b : Bool} (h : ∀ px py, s.disp.cell px py = b) :
    s.displayRead = Vector.replicate 2048 b := by
  apply Vector.ext
  intro k hk
  rw [State.displayRead, Vector.getElem_ofFn, Vector.getElem_replicate, Display.flat, h]

/-- CLS puts the clear display in place of DISP (R150). -/
theorem exec_cls (s : State) : exec .cls s = .next (s.setDisp Display.clear) := rfl

/-- Settles O38: CLS is one change of DISP, to a display that is 0 at every cell and so reads as zeros. -/
theorem clearDisplay : Obligations.ClearDisplay := by
  intro s
  have hzero : ∀ px py, (s.setDisp Display.clear).disp.cell px py = false := Display.cell_clear
  refine ⟨decodeWord_cls, s.setDisp Display.clear, exec_cls s, hzero, ?read, s.onlyChanges_setDisp Display.clear⟩
  case read => rw [event, State.displayRead_eq_replicate hzero]

end Sys2Proof.Machine
end

section
/-!
PROOFS. The transfers between a register and a timer: their words in family F, the frame of a timer write, and O44 (R163
to R165).
-/

namespace Sys2Proof

/-- A word of family 0xF is left to the family's own decoder (R85, R88). -/
theorem decodeWord_formatXS_familyF (x : Reg) (sel : Byte) :
    decodeWord (formatXS 0xF#4 x sel) = decodeF (formatXS 0xF#4 x sel) := by
  rw [decodeWord, family_formatXS]
  rfl

/-- A word of family 0xF with low byte 0x07 is LD_VX_DT on its own X (R88). -/
theorem decodeWord_formatXS_ldVxDt (x : Reg) : decodeWord (formatXS 0xF#4 x 0x07#8) = .ok (.ldVxDt x) := by
  simp only [decodeWord_formatXS_familyF, decodeF, fieldNN_formatXS, fieldX_formatXS]

/-- A word of family 0xF with low byte 0x15 is LD_DT_VX on its own X (R88). -/
theorem decodeWord_formatXS_ldDtVx (x : Reg) : decodeWord (formatXS 0xF#4 x 0x15#8) = .ok (.ldDtVx x) := by
  simp only [decodeWord_formatXS_familyF, decodeF, fieldNN_formatXS, fieldX_formatXS]

/-- A word of family 0xF with low byte 0x18 is LD_ST_VX on its own X (R88). -/
theorem decodeWord_formatXS_ldStVx (x : Reg) : decodeWord (formatXS 0xF#4 x 0x18#8) = .ok (.ldStVx x) := by
  simp only [decodeWord_formatXS_familyF, decodeF, fieldNN_formatXS, fieldX_formatXS]

end Sys2Proof

namespace Sys2Proof.Machine

/-- A write of the delay timer agrees with the start state on every other component. -/
theorem State.onlyChanges_setDt (s : State) (b : Byte) : OnlyChanges [.dt] s (s.setDt b) := by
  intro c hc
  cases c
  case dt => exact absurd List.mem_cons_self hc
  all_goals simp [Component.Agree]

/-- A write of the sound timer agrees with the start state on every other component. -/
theorem State.onlyChanges_setSt (s : State) (b : Byte) : OnlyChanges [.st] s (s.setSt b) := by
  intro c hc
  cases c
  case st => exact absurd List.mem_cons_self hc
  all_goals simp [Component.Agree]

/-- LD_VX_DT writes the delay timer to V[X] (R163). -/
theorem exec_ldVxDt (x : Reg) (s : State) : exec (.ldVxDt x) s = .next (s.setV x s.dt) := rfl

/-- LD_DT_VX writes V[X] to the delay timer (R164). -/
theorem exec_ldDtVx (x : Reg) (s : State) : exec (.ldDtVx x) s = .next (s.setDt (s.getV x)) := rfl

/-- LD_ST_VX writes V[X] to the sound timer (R165). -/
theorem exec_ldStVx (x : Reg) (s : State) : exec (.ldStVx x) s = .next (s.setSt (s.getV x)) := rfl

/-- Settles O44: each transfer is one write of its destination, read back there, and changes nothing else. -/
theorem timerTransfers : Obligations.TimerTransfers := by
  intro x s
  exact ⟨decodeWord_formatXS_ldVxDt x,
    ⟨_, exec_ldVxDt x s, s.getV_setV_same x _, s.onlyWritesRegs_setV x _, s.onlyChanges_setV x _⟩,
    decodeWord_formatXS_ldDtVx x, ⟨_, exec_ldDtVx x s, s.setDt_dt _, s.onlyChanges_setDt _⟩,
    decodeWord_formatXS_ldStVx x, ⟨_, exec_ldStVx x s, s.setSt_st _, s.onlyChanges_setSt _⟩⟩

end Sys2Proof.Machine
end

section
/-!
PROOFS. The faults an instruction can raise, all of them (R171), and O9 (R173).
-/

namespace Sys2Proof.Machine

/-- RET's arm (R101). -/
theorem exec_ret (s : State) : exec .ret s = execRet s := rfl

/-- CALL's arm (R103). -/
theorem exec_call (nnn : Addr) (s : State) : exec (.call nnn) s = execCall nnn s := rfl

/-- LD_VX_K's arm (R166). -/
theorem exec_ldVxK (x : Reg) (s : State) : exec (.ldVxK x) s = execLdVxK x s := rfl

/-- RET faults exactly on an empty stack, with its own address and word (R101). -/
theorem execRet_eq_fault_iff (s : State) (f : Fault) :
    execRet s = .fault f ↔ s.stack = [] ∧ f = .stackUnderflow s.pc0 0x00EE := by
  cases hstack : s.stack with
  | nil => simp [execRet_nil hstack, eq_comm]
  | cons w rest => simp [execRet_cons hstack]

/-- CALL faults exactly on a full stack, with its own address and word (R103). -/
theorem execCall_eq_fault_iff (nnn : Addr) (s : State) (f : Fault) :
    execCall nnn s = .fault f ↔ s.stackFull = true ∧ f = .stackOverflow s.pc0 (encode (.call nnn)) := by
  cases hfull : s.stackFull with
  | true => simp [execCall_full hfull, eq_comm]
  | false => simp [execCall_room hfull]

/-- LD_VX_K never faults: waiting for a key is a normal end (R166). -/
theorem execLdVxK_ne_fault (x : Reg) (s : State) (f : Fault) : execLdVxK x s ≠ .fault f := by
  unfold execLdVxK
  cases s.firstKeyDown <;> nofun

/-- Every fault an instruction raises: RET's on an empty stack, CALL's on a full one, and no other (R171). -/
theorem exec_eq_fault_iff (i : Instr) (s : State) (f : Fault) : exec i s = .fault f ↔
    (i = .ret ∧ s.stack = [] ∧ f = .stackUnderflow s.pc0 0x00EE) ∨
    (∃ nnn, i = .call nnn ∧ s.stackFull = true ∧ f = .stackOverflow s.pc0 (encode (.call nnn))) := by
  cases i
  case ret => simpa [exec_ret] using execRet_eq_fault_iff s f
  case call nnn => simpa [exec_call] using execCall_eq_fault_iff nnn s f
  case ldVxK x => simpa [exec_ldVxK] using execLdVxK_ne_fault x s f
  all_goals exact ⟨nofun, by rintro (⟨hret, -⟩ | ⟨_, hcall, -⟩) <;> contradiction⟩

/-- Settles O9: of the two faults an instruction raises, RET's is the StackUnderflow. -/
theorem stackUnderflowExactly : Obligations.StackUnderflowExactly := by
  intro i s a w
  rw [exec_eq_fault_iff]
  simp [State.pc0]

end Sys2Proof.Machine
end

section
/-!
PROOFS. The host's TICK: a timer's value after it, its frame, and O45 (R183).
-/

namespace Sys2Proof.Machine

/-- A timer loses 1, and one at 0 stays there: the subtraction of naturals (R183). -/
@[simp] theorem tickTimer_toNat (t : Byte) : (tickTimer t).toNat = t.toNat - 1 := by
  unfold tickTimer
  split
  case isTrue hzero => rw [hzero]; rfl
  case isFalse hpos => bv_omega

/-- TICK agrees with the start state on every component but the two timers. -/
theorem State.onlyChanges_tick (s : State) : OnlyChanges [.dt, .st] s s.tick := by
  intro c hc
  cases c
  case dt | st => simp at hc
  all_goals simp [Component.Agree]

/-- TICK answers nothing and leaves `State.tick` (R183). -/
theorem event_tick (s : State) : event .tick s = (s.tick, .nothing) := rfl

/-- Settles O45: TICK applies `tickTimer` to each timer and keeps every other component. -/
theorem tickDecrementsTimers : Obligations.TickDecrementsTimers := by
  intro s
  rw [event_tick]
  exact ⟨tickTimer_toNat s.dt, tickTimer_toNat s.st, s.onlyChanges_tick, rfl⟩

end Sys2Proof.Machine
end

section
/-!
PROOFS. The decoder and the encoder undo each other, word by word (R80, R85 to R89): O2 and O3.
-/

namespace Sys2Proof

/-- A word of family 0 that is neither CLS nor RET is SYS on its own NNN (R87). -/
theorem decodeWord_formatA_sys {nnn : Addr} (hcls : nnn ≠ 0x0E0#12) (hret : nnn ≠ 0x0EE#12) :
    decodeWord (formatA 0x0#4 nnn) = .ok (.sys nnn) := by
  have hne : ∀ n : Addr, nnn ≠ n → formatA 0x0#4 nnn ≠ formatA 0x0#4 n := fun n hn heq =>
    hn (by rw [← fieldNNN_formatA 0x0#4 nnn, heq, fieldNNN_formatA])
  have hdec : decodeWord (formatA 0x0#4 nnn) = .ok (decode0 (formatA 0x0#4 nnn)) := by
    simp only [decodeWord, family_formatA]
  have hcls' : formatA 0x0#4 nnn ≠ 0x00E0#16 := hne 0x0E0#12 hcls
  have hret' : formatA 0x0#4 nnn ≠ 0x00EE#16 := hne 0x0EE#12 hret
  rw [hdec, decode0, if_neg hcls', if_neg hret', fieldNNN_formatA]

/-- The word of a well-formed instruction decodes to it, format by format. -/
theorem decodeWord_encode {i : Instr} (hwf : i.wf = true) : decodeWord (encode i) = .ok i := by
  cases i
  case cls | ret => rfl
  case sys nnn =>
    obtain ⟨hcls, hret⟩ : nnn ≠ 0x0E0#12 ∧ nnn ≠ 0x0EE#12 := by simpa [Instr.wf] using hwf
    exact decodeWord_formatA_sys hcls hret
  case jp | call | ldI | jpV0 => simp only [encode, decodeWord, family_formatA, fieldNNN_formatA]
  case seImm | sneImm | ldImm | addImm | rnd =>
    simp only [encode, decodeWord, family_formatXI, fieldX_formatXI, fieldNN_formatXI]
  case seReg x y => exact decodeWord_formatXYN_seReg x y
  case sneReg x y => exact decodeWord_formatXYN_sneReg x y
  case ldReg | or | and | xor | addReg | sub | shr | subn | shl =>
    simp only [encode, decodeWord_formatXYN_family8, decode8, fieldN_formatXYN, fieldX_formatXYN, fieldY_formatXYN]
  case drw =>
    simp only [encode, decodeWord, family_formatXYN, fieldX_formatXYN, fieldY_formatXYN, fieldN_formatXYN]
  case skp | sknp =>
    simp only [encode, decodeWord, family_formatXS, decodeE, fieldNN_formatXS, fieldX_formatXS]
  case ldVxDt | ldVxK | ldDtVx | ldStVx | addI | ldF | ldB | stRegs | ldRegs =>
    simp only [encode, decodeWord_formatXS_familyF, decodeF, fieldNN_formatXS, fieldX_formatXS]

/-- Settles O2: the decoder on a word's bytes is the decoder on the word. -/
theorem decodeOfEncode : Obligations.DecodeOfEncode := by
  intro i rest hwf
  rw [decode_wordBytes, decodeWord_encode hwf]

/-! ### From the word to the instruction and back -/

/-- A word is put together from a family and an NNN it has. -/
theorem formatA_eq_of_fields {w : Word} {f : BitVec 4} (hf : family w = f) : formatA f (fieldNNN w) = w := by
  rw [← hf, formatA_fields]

/-- A word is put together from a family it has, its X and its NN. -/
theorem formatXI_eq_of_fields {w : Word} {f : BitVec 4} (hf : family w = f) :
    formatXI f (fieldX w) (fieldNN w) = w := by
  rw [← hf, formatXI_fields]

/-- A word is put together from a family and a low nibble it has, its X and its Y. -/
theorem formatXYN_eq_of_fields {w : Word} {f n : BitVec 4} (hf : family w = f) (hn : fieldN w = n) :
    formatXYN f (fieldX w) (fieldY w) n = w := by
  rw [← hf, ← hn, formatXYN_fields]

/-- A word is put together from a family and a selector byte it has, and its X. -/
theorem formatXS_eq_of_fields {w : Word} {f : BitVec 4} {sel : Byte} (hf : family w = f) (hsel : fieldNN w = sel) :
    formatXS f (fieldX w) sel = w := by
  rw [← hf, ← hsel, formatXS_fields]

/-- Family 0: the words of CLS and RET are taken out of SYS's, so its NNN is neither of theirs (R87). -/
theorem encode_decode0 {w : Word} (hf : family w = 0x0#4) : (decode0 w).wf = true ∧ encode (decode0 w) = w := by
  have hw : formatA 0x0#4 (fieldNNN w) = w := formatA_eq_of_fields hf
  unfold decode0
  split
  case isTrue hcls => exact ⟨rfl, hcls.symm⟩
  case isFalse hcls =>
    split
    case isTrue hret => exact ⟨rfl, hret.symm⟩
    case isFalse hret =>
      have hne : ∀ n : Addr, formatA 0x0#4 n ≠ w → fieldNNN w ≠ n := fun n hn heq => hn (heq ▸ hw)
      refine ⟨?_, hw⟩
      simpa [Instr.wf] using And.intro (hne 0x0E0#12 (Ne.symm hcls)) (hne 0x0EE#12 (Ne.symm hret))

/-- Family 8: the selector is the low nibble of the instruction's own format (R88). -/
theorem encode_of_decode8 {w : Word} {i : Instr} (hf : family w = 0x8#4) (h : decode8 w = .ok i) :
    i.wf = true ∧ encode i = w := by
  unfold decode8 at h
  split at h
  case h_10 => cases h
  all_goals
    next hn =>
      cases h
      exact ⟨rfl, formatXYN_eq_of_fields hf hn⟩

/-- Family E: the selector is the low byte of the instruction's own format (R88). -/
theorem encode_of_decodeE {w : Word} {i : Instr} (hf : family w = 0xE#4) (h : decodeE w = .ok i) :
    i.wf = true ∧ encode i = w := by
  unfold decodeE at h
  split at h
  case h_3 => cases h
  all_goals
    next hsel =>
      cases h
      exact ⟨rfl, formatXS_eq_of_fields hf hsel⟩

/-- Family F: the selector is the low byte of the instruction's own format (R88). -/
theorem encode_of_decodeF {w : Word} {i : Instr} (hf : family w = 0xF#4) (h : decodeF w = .ok i) :
    i.wf = true ∧ encode i = w := by
  unfold decodeF at h
  split at h
  case h_10 => cases h
  all_goals
    next hsel =>
      cases h
      exact ⟨rfl, formatXS_eq_of_fields hf hsel⟩

/-- A word that decodes is the encoding of what it decodes to. Case k + 1 of the decoder's match is family k. -/
theorem encode_of_decodeWord {w : Word} {i : Instr} (h : decodeWord w = .ok i) : i.wf = true ∧ encode i = w := by
  unfold decodeWord at h
  split at h
  case h_1 hf => cases h; exact encode_decode0 hf
  case h_2 hf | h_3 hf | h_11 hf | h_12 hf => cases h; exact ⟨rfl, formatA_eq_of_fields hf⟩
  case h_4 hf | h_5 hf | h_7 hf | h_8 hf | h_13 hf => cases h; exact ⟨rfl, formatXI_eq_of_fields hf⟩
  case h_6 hf | h_10 hf =>
    split at h
    case isTrue hn => cases h; exact ⟨rfl, formatXYN_eq_of_fields hf hn⟩
    case isFalse => cases h
  case h_14 hf => cases h; exact ⟨rfl, formatXYN_eq_of_fields hf rfl⟩
  case h_9 hf => exact encode_of_decode8 hf h
  case h_15 hf => exact encode_of_decodeE hf h
  case h_16 =>
    have hf : family w = 0xF#4 := by
      have hcases := nibble_cases (family w)
      simp_all
    exact encode_of_decodeF hf h

/-- Settles O3: the instruction's format puts the word together again from the fields the decoder read. -/
theorem encodeOfDecode : Obligations.EncodeOfDecode := fun _ _ => encode_of_decodeWord

end Sys2Proof
end

section
/-!
PROOFS. The words that decode to nothing (R90), and the decoder as the first match in the opcode map (R86, R87): O4, O5
and O1.
-/

namespace Sys2Proof

/-! ### The illegal words of each family -/

/-- The unused low nibbles of family 8 (R88). -/
theorem decode8_error_iff (w : Word) :
    (∃ e, decode8 w = .error e) ↔ fieldN w ∈ [0x8#4, 0x9#4, 0xA#4, 0xB#4, 0xC#4, 0xD#4, 0xF#4] := by
  rcases nibble_cases (fieldN w) with
    hn | hn | hn | hn | hn | hn | hn | hn | hn | hn | hn | hn | hn | hn | hn | hn
  all_goals simp [decode8, hn]

/-- The unused low bytes of family E (R88). -/
theorem decodeE_error_iff (w : Word) : (∃ e, decodeE w = .error e) ↔ fieldNN w ∉ [0x9E#8, 0xA1#8] := by
  unfold decodeE
  split <;> simp_all

/-- The unused low bytes of family F (R88). -/
theorem decodeF_error_iff (w : Word) : (∃ e, decodeF w = .error e) ↔
    fieldNN w ∉ [0x07#8, 0x0A#8, 0x15#8, 0x18#8, 0x1E#8, 0x29#8, 0x33#8, 0x55#8, 0x65#8] := by
  unfold decodeF
  split <;> simp_all

/-- Families 5 and 9 leave every low nibble but 0 unmatched (R89). -/
theorem exists_ite_error_iff {p : Prop} [Decidable p] (i : Instr) (err : DecodeError) :
    (∃ e, (if p then .ok i else .error err : Except DecodeError Instr) = .error e) ↔ ¬p := by
  split <;> simp [*]

/-- Settles O4: family by family, what the family's own selector leaves unmatched. Case k + 1 of the decoder's match is
family k. -/
theorem illegalWordsAreExactly : Obligations.IllegalWordsAreExactly := by
  intro w
  unfold decodeWord
  split
  case h_6 hf | h_10 hf => rw [exists_ite_error_iff, hf]; simp
  case h_9 hf => rw [decode8_error_iff, hf]; simp
  case h_15 hf => rw [decodeE_error_iff, hf]; simp
  case h_16 =>
    have hf : family w = 0xF#4 := by
      have hcases := nibble_cases (family w)
      simp_all
    rw [decodeF_error_iff, hf]
    simp
  all_goals next hf => simp [hf]

/-! ### The opcode map's masks as fields -/

/-- The mask 0xF000 keeps the family. -/
theorem and_F000_eq (w : Word) : w &&& 0xF000#16 = formatA (family w) 0 := by
  conv => lhs; rw [← formatA_fields w, Laws.OpcodeRow.formatA_family]

/-- The mask 0xF00F keeps the family and the low nibble. -/
theorem and_F00F_eq (w : Word) : w &&& 0xF00F#16 = formatXYN (family w) 0 0 (fieldN w) := by
  conv => lhs; rw [← formatXYN_fields w, Laws.OpcodeRow.formatXYN_selector]

/-- The mask 0xF0FF keeps the family and the low byte. -/
theorem and_F0FF_eq (w : Word) : w &&& 0xF0FF#16 = formatXS (family w) 0 (fieldNN w) := by
  conv => lhs; rw [← formatXS_fields w, Laws.OpcodeRow.formatXS_selector]

/-- Words that agree under the mask 0xF000 are of one family. -/
theorem family_eq_of_and_F000_eq {w v : Word} (h : w &&& 0xF000#16 = v &&& 0xF000#16) : family w = family v := by
  rw [and_F000_eq, and_F000_eq] at h
  rw [← family_formatA (family w) 0, h, family_formatA]

/-- In a row of the word's family, the mask 0xF000 always selects. -/
theorem selects_F000 {w v : Word} (hf : family w = family v) (hv : v &&& 0xF000#16 = v) : w &&& 0xF000#16 = v := by
  rw [← hv, and_F000_eq, and_F000_eq, hf]

/-- In a row of the word's family, the mask 0xF00F selects on the low nibble. -/
theorem selects_F00F_iff {w v : Word} (hf : family w = family v) (hv : v &&& 0xF00F#16 = v) :
    w &&& 0xF00F#16 = v ↔ fieldN w = fieldN v := by
  conv => lhs; rw [← hv, and_F00F_eq, and_F00F_eq, hf]
  exact ⟨fun h => by rw [← fieldN_formatXYN (family v) 0 0 (fieldN w), h, fieldN_formatXYN], fun h => by rw [h]⟩

/-- In a row of the word's family, the mask 0xF0FF selects on the low byte. -/
theorem selects_F0FF_iff {w v : Word} (hf : family w = family v) (hv : v &&& 0xF0FF#16 = v) :
    w &&& 0xF0FF#16 = v ↔ fieldNN w = fieldNN v := by
  conv => lhs; rw [← hv, and_F0FF_eq, and_F0FF_eq, hf]
  exact ⟨fun h => by rw [← fieldNN_formatXS (family v) 0 (fieldNN w), h, fieldNN_formatXS], fun h => by rw [h]⟩

/-- The rows of one family, in the map's order. -/
def familyRows (f : BitVec 4) : List OpcodeRow := opcodeMap.filter fun r => family r.value == f

/-- Every mask of the map covers the family, so a word selects rows of its own family alone. -/
theorem family_value_of_selects {w : Word} {r : OpcodeRow} (hr : r ∈ opcodeMap) (h : w &&& r.mask = r.value) :
    family r.value = family w := by
  have hcovers : ∀ r ∈ opcodeMap, r.mask &&& 0xF000#16 = 0xF000#16 := by decide
  apply family_eq_of_and_F000_eq
  rw [← h, BitVec.and_assoc, hcovers r hr]

/-- The first match in the map is the first match among the rows of the word's family. -/
theorem firstRow_eq_find_familyRows (w : Word) :
    firstRow w = (familyRows (family w)).find? fun r => w &&& r.mask == r.value := by
  rw [familyRows, List.find?_filter, firstRow]
  refine List.find?_congr fun r hr => ?_
  rw [Bool.eq_iff_iff]
  simpa using family_value_of_selects hr

/-! ### The first row of each family -/

@[simp] theorem family_ofNat (n : Nat) : family (BitVec.ofNat 16 n) = BitVec.ofNat 4 (n / 4096) := by
  apply BitVec.eq_of_toNat_eq
  simp only [family, BitVec.extractLsb'_toNat, BitVec.toNat_ofNat, Nat.shiftRight_eq_div_pow]
  omega

@[simp] theorem fieldN_ofNat (n : Nat) : fieldN (BitVec.ofNat 16 n) = BitVec.ofNat 4 n := by
  apply BitVec.eq_of_toNat_eq
  simp only [fieldN, BitVec.extractLsb'_toNat, BitVec.toNat_ofNat, Nat.shiftRight_eq_div_pow]
  omega

@[simp] theorem fieldNN_ofNat (n : Nat) : fieldNN (BitVec.ofNat 16 n) = BitVec.ofNat 8 n := by
  apply BitVec.eq_of_toNat_eq
  simp only [fieldNN, BitVec.extractLsb'_toNat, BitVec.toNat_ofNat, Nat.shiftRight_eq_div_pow]
  omega

/-- A family of one row that masks nothing but the family: every word of it selects the row. -/
theorem firstRow_of_F000_row {w : Word} {f : BitVec 4} {r : OpcodeRow} (hf : family w = f)
    (hrows : familyRows f = [r]) (hmask : r.mask = 0xF000#16) (hvalue : r.value = formatA f 0) :
    firstRow w = some r := by
  have hselects : w &&& r.mask = r.value := by rw [hmask, hvalue, and_F000_eq, hf]
  simp [firstRow_eq_find_familyRows, hf, hrows, hselects]

/-- A family of one row that masks the low nibble too: the words with the row's nibble select it. -/
theorem firstRow_of_F00F_row {w : Word} {f : BitVec 4} {r : OpcodeRow} (hf : family w = f)
    (hrows : familyRows f = [r]) (hmask : r.mask = 0xF00F#16) (hvalue : r.value = formatXYN f 0 0 0) :
    firstRow w = if fieldN w = 0 then some r else none := by
  have hselects : w &&& r.mask = r.value ↔ fieldN w = 0 := by
    rw [hmask, selects_F00F_iff] <;> simp [hvalue, hf, and_F00F_eq]
  rw [firstRow_eq_find_familyRows, hf, hrows]
  split
  case isTrue hn => exact List.find?_cons_of_pos (by simpa using hselects.mpr hn)
  case isFalse hn => exact List.find?_cons_of_neg (by simpa using hselects.not.mpr hn)

/-- Family 0: the two exact words come before SYS (R87). -/
theorem firstRow_mnemonic_family0 {w : Word} (hf : family w = 0x0#4) :
    (firstRow w).map OpcodeRow.mnemonic = some (decode0 w).mnemonic := by
  have hrows : familyRows 0x0#4 =
      [⟨"CLS", 0xFFFF#16, 0x00E0#16⟩, ⟨"RET", 0xFFFF#16, 0x00EE#16⟩, ⟨"SYS", 0xF000#16, 0x0000#16⟩] := rfl
  have hall : w &&& 0xFFFF#16 = w := BitVec.and_allOnes
  have hsys : w &&& 0xF000#16 = 0x0000#16 := by rw [and_F000_eq, hf]; rfl
  rw [firstRow_eq_find_familyRows, hf, hrows, decode0]
  by_cases hcls : w = 0x00E0#16
  · simp [hcls, Instr.mnemonic]
  · by_cases hret : w = 0x00EE#16
    · simp [hret, Instr.mnemonic]
    · simp [hall, hsys, hcls, hret, Instr.mnemonic]

/-- Family 8: the rows select on the low nibble (R88). -/
theorem firstRow_mnemonic_family8 {w : Word} (hf : family w = 0x8#4) :
    (firstRow w).map OpcodeRow.mnemonic = (decode8 w).toOption.map Instr.mnemonic := by
  have hrows : familyRows 0x8#4 = opcodeRows2.drop 2 := rfl
  rw [firstRow_eq_find_familyRows, hf, hrows]
  unfold decode8
  split
  all_goals simp_all [opcodeRows2, selects_F00F_iff, Except.toOption, Instr.mnemonic]

/-- Family E: the rows select on the low byte (R88). -/
theorem firstRow_mnemonic_familyE {w : Word} (hf : family w = 0xE#4) :
    (firstRow w).map OpcodeRow.mnemonic = (decodeE w).toOption.map Instr.mnemonic := by
  have hrows : familyRows 0xE#4 = opcodeRows3.drop 5 := rfl
  rw [firstRow_eq_find_familyRows, hf, hrows]
  unfold decodeE
  split
  all_goals simp_all [opcodeRows3, selects_F0FF_iff, Except.toOption, Instr.mnemonic]

/-- Family F: the rows select on the low byte (R88). -/
theorem firstRow_mnemonic_familyF {w : Word} (hf : family w = 0xF#4) :
    (firstRow w).map OpcodeRow.mnemonic = (decodeF w).toOption.map Instr.mnemonic := by
  have hrows : familyRows 0xF#4 = opcodeRows4.take 9 := rfl
  rw [firstRow_eq_find_familyRows, hf, hrows]
  unfold decodeF
  split
  all_goals simp_all [opcodeRows4, selects_F0FF_iff, Except.toOption, Instr.mnemonic]

/-- Settles O5: a word selects among the rows of its own family, and there the map and the decoder read the same
selector. Case k + 1 of the decoder's match is family k. -/
theorem decodeFollowsOpcodeMap : Obligations.DecodeFollowsOpcodeMap := by
  intro w
  unfold decodeWord
  split
  case h_1 hf => exact firstRow_mnemonic_family0 hf
  case h_9 hf => exact firstRow_mnemonic_family8 hf
  case h_15 hf => exact firstRow_mnemonic_familyE hf
  case h_16 =>
    have hf : family w = 0xF#4 := by
      have hcases := nibble_cases (family w)
      simp_all
    exact firstRow_mnemonic_familyF hf
  case h_6 hf | h_10 hf =>
    rw [firstRow_of_F00F_row hf rfl rfl rfl]
    split <;> rfl
  all_goals next hf => exact congrArg _ (firstRow_of_F000_row hf rfl rfl rfl)

/-- A word that selects no row is one the decoder rejects. -/
theorem firstRow_eq_none_iff (w : Word) : firstRow w = none ↔ ∃ e, decodeWord w = .error e := by
  rw [← Option.map_eq_none_iff, decodeFollowsOpcodeMap w]
  cases decodeWord w <;> simp [Except.toOption]

/-- Settles O1: the decoder evaluated on each byte string. -/
theorem specWordsDecode : Obligations.SpecWordsDecode := by
  unfold Obligations.SpecWordsDecode
  decide

end Sys2Proof
end

section
/-!
PROOFS. The faults of a STEP, all of them with their records (R84, R170 to R176), the steps that complete, and O8, O10,
O11 and O12.
-/

namespace Sys2Proof.Machine

/-- An instruction completes or faults: none is refused. -/
theorem exec_ne_refused (i : Instr) (s : State) (r : Refusal) : exec i s ≠ .refused r := by
  cases i
  case ret =>
    rw [exec_ret]
    cases hstack : s.stack with
    | nil => rw [execRet_nil hstack]; nofun
    | cons w rest => rw [execRet_cons hstack]; nofun
  case call nnn =>
    rw [exec_call]
    cases hfull : s.stackFull with
    | true => rw [execCall_full hfull]; nofun
    | false => rw [execCall_room hfull]; nofun
  case ldVxK x =>
    rw [exec_ldVxK, execLdVxK]
    cases s.firstKeyDown <;> nofun
  all_goals nofun

/-- The step of a word that decodes: its instruction on the advanced state (R84). -/
theorem step_of_decodeWord_ok {s : State} {i : Instr} (hpc : s.pc.toNat ≤ 0xFFE)
    (hd : decodeWord s.fetchWord = .ok i) : step s = exec i s.advance := by
  rw [step_eq, if_pos hpc, hd]

/-- The step of a word that does not decode (R174). -/
theorem step_of_decodeWord_error {s : State} {e : DecodeError} (hpc : s.pc.toNat ≤ 0xFFE)
    (hd : decodeWord s.fetchWord = .error e) : step s = .fault (.decodeFailure s.pc s.fetchWord) := by
  rw [step_eq, if_pos hpc, hd]

/-- The step from a PC no fetch succeeds at (R54). -/
theorem step_of_fetch_out_of_range {s : State} (hpc : ¬s.pc.toNat ≤ 0xFFE) :
    step s = .fault (.fetchOutOfRange s.pc) := by
  rw [step_eq, if_neg hpc]

/-- The faults a step can raise and when, in the order fetch, decode, execute (R171, R179). -/
inductive StepFault (s : State) : Fault → Prop
  | fetch (hpc : ¬s.pc.toNat ≤ 0xFFE) : StepFault s (.fetchOutOfRange s.pc)
  | decode (hpc : s.pc.toNat ≤ 0xFFE) (e : DecodeError) (hd : decodeWord s.fetchWord = .error e) :
      StepFault s (.decodeFailure s.pc s.fetchWord)
  | ret (hpc : s.pc.toNat ≤ 0xFFE) (hd : decodeWord s.fetchWord = .ok .ret) (hstack : s.stack = []) :
      StepFault s (.stackUnderflow s.pc s.fetchWord)
  | call (hpc : s.pc.toNat ≤ 0xFFE) (nnn : Addr) (hd : decodeWord s.fetchWord = .ok (.call nnn))
      (hfull : s.params.stackDepth = some s.stack.length) : StepFault s (.stackOverflow s.pc s.fetchWord)

/-- A step raises no other fault. The record of a fault inside an instruction names the fetched word, because a word
that decodes is the encoding of what it decodes to. -/
theorem stepFault_of_step {s : State} {f : Fault} (h : step s = .fault f) : StepFault s f := by
  by_cases hpc : s.pc.toNat ≤ 0xFFE
  case neg =>
    rw [step_of_fetch_out_of_range hpc] at h
    cases h
    exact .fetch hpc
  case pos =>
    cases hd : decodeWord s.fetchWord with
    | error e =>
      rw [step_of_decodeWord_error hpc hd] at h
      cases h
      exact .decode hpc e hd
    | ok i =>
      rw [step_of_decodeWord_ok hpc hd, exec_eq_fault_iff, State.pc0_advance] at h
      have hword : encode i = s.fetchWord := (encode_of_decodeWord hd).2
      obtain ⟨rfl, hstack, rfl⟩ | ⟨nnn, rfl, hfull, rfl⟩ := h
      · rw [show (0x00EE : Word) = s.fetchWord from hword]
        exact .ret hpc hd hstack
      · rw [hword]
        exact .call hpc nnn hd (s.advance.stackFull_iff.mp hfull)

/-- Each of them is raised. -/
theorem StepFault.step {s : State} {f : Fault} (h : StepFault s f) : step s = .fault f := by
  cases h with
  | fetch hpc => exact step_of_fetch_out_of_range hpc
  | decode hpc e hd => exact step_of_decodeWord_error hpc hd
  | ret hpc hd hstack =>
    rw [step_of_decodeWord_ok hpc hd, exec_ret, execRet_nil (s := s.advance) hstack, State.pc0_advance,
      ← (encode_of_decodeWord hd).2]
    rfl
  | call hpc nnn hd hfull =>
    rw [step_of_decodeWord_ok hpc hd, exec_call, execCall_full (s.advance.stackFull_iff.mpr hfull),
      State.pc0_advance, (encode_of_decodeWord hd).2]

/-- `StepFault` lists the faults of a step, no more and no fewer. -/
theorem step_eq_fault_iff (s : State) (f : Fault) : step s = .fault f ↔ StepFault s f :=
  ⟨stepFault_of_step, StepFault.step⟩

/-- A step that completes is one of a decoded instruction that completes. -/
theorem exists_exec_of_step_next {s t : State} (h : step s = .next t) :
    s.pc.toNat ≤ 0xFFE ∧ ∃ i, decodeWord s.fetchWord = .ok i ∧ exec i s.advance = .next t := by
  by_cases hpc : s.pc.toNat ≤ 0xFFE
  case neg => rw [step_of_fetch_out_of_range hpc] at h; cases h
  case pos =>
    cases hd : decodeWord s.fetchWord with
    | error e => rw [step_of_decodeWord_error hpc hd] at h; cases h
    | ok i => exact ⟨hpc, i, rfl, step_of_decodeWord_ok hpc hd ▸ h⟩

/-- A step completes or faults: none is refused. -/
theorem step_next_or_fault (s : State) : (∃ t, step s = .next t) ∨ ∃ f, step s = .fault f := by
  cases h : step s with
  | next t => exact .inl ⟨t, rfl⟩
  | fault f => exact .inr ⟨f, rfl⟩
  | refused r =>
    rw [step_eq] at h
    split at h
    case isFalse => cases h
    case isTrue =>
      split at h
      · exact absurd h (exec_ne_refused _ _ r)
      · cases h

/-! ### The obligations -/

/-- Settles O8: of a step's faults, the decoder's is the DecodeFailure, and the words the decoder rejects are those that
select no row. -/
theorem decodeFailureExactly : Obligations.DecodeFailureExactly := by
  intro s a w
  rw [step_eq_fault_iff, firstRow_eq_none_iff]
  constructor
  · rintro (_ | ⟨hpc, e, hd⟩)
    exact ⟨hpc, ⟨e, hd⟩, rfl, rfl⟩
  · rintro ⟨hpc, ⟨e, hd⟩, rfl, rfl⟩
    exact .decode hpc e hd

/-- LOAD faults with the base address and the length alone (R172). -/
theorem eq_loadError_of_event_load {s : State} {base : Addr} {bytes : List Byte} {f : Fault}
    (h : (event (.load base bytes) s).2 = .fault f) :
    loadTooLong base bytes = true ∧ f = .loadError base bytes.length := by
  simp only [event, loadEvent] at h
  split at h
  case isTrue hlong => cases h; exact ⟨hlong, rfl⟩
  case isFalse => cases h

/-- Settles O10: the record of each fault a step and a LOAD can raise. -/
theorem faultRecordNamesInstruction : Obligations.FaultRecordNamesInstruction := by
  refine ⟨fun s f h => ?step, fun s base bytes f h => ?load⟩
  case step =>
    cases stepFault_of_step h with
    | fetch hpc => exact ⟨rfl, (if_neg hpc).symm⟩
    | decode hpc | ret hpc | call hpc => exact ⟨rfl, (if_pos hpc).symm⟩
  case load =>
    obtain ⟨-, rfl⟩ := eq_loadError_of_event_load h
    exact ⟨BitVec.toNat_setWidth_of_le (by decide), rfl⟩

/-- Settles O11: the four faults where they are due, and none of them elsewhere. -/
theorem stepFaultsAreExactly : Obligations.StepFaultsAreExactly := by
  refine fun s => ⟨fun hpc => ⟨_, (StepFault.fetch (Nat.not_le.mpr hpc)).step, rfl, rfl⟩,
    fun e hpc hd => ⟨_, (StepFault.decode hpc e hd).step, rfl, rfl⟩, fun i hpc hd => ⟨?ret, ?call, ?next⟩⟩
  case ret =>
    rintro rfl hstack
    exact ⟨_, (StepFault.ret hpc hd hstack).step, rfl, rfl⟩
  case call =>
    rintro nnn rfl hfull
    exact ⟨_, (StepFault.call hpc nnn hd hfull).step, rfl, rfl⟩
  case next =>
    intro hret hcall
    refine (step_next_or_fault s).resolve_right ?_
    rintro ⟨f, hf⟩
    cases stepFault_of_step hf with
    | fetch hpc' => exact hpc' hpc
    | decode _ e hd' => rw [hd] at hd'; cases hd'
    | ret _ hd' hstack => rw [hd] at hd'; cases hd'; exact hret ⟨rfl, hstack⟩
    | call _ nnn hd' hfull => rw [hd] at hd'; cases hd'; exact hcall ⟨⟨nnn, rfl⟩, hfull⟩

/-- The fetch advance changes PC alone (R83). -/
theorem State.onlyChanges_advance (s : State) : OnlyChanges [.pc] s s.advance := s.onlyChanges_jump (s.pc + 2)

/-- Nothing has changed when nothing has happened. -/
theorem OnlyChanges.refl (changed : List Component) (s : State) : OnlyChanges changed s s := by
  intro c _
  cases c <;> simp [Component.Agree]

/-- Settles O12: the faults after the fetch leave the advanced state, the fetch's leaves the state as it was. -/
theorem faultLeavesState : Obligations.FaultLeavesState := by
  intro s f h
  rw [event_step_of_fault h]
  cases stepFault_of_step h with
  | fetch hpc => exact ⟨rfl, (if_neg hpc).symm, .refl _ s⟩
  | decode hpc | ret hpc | call hpc => exact ⟨rfl, (if_pos hpc).symm, s.onlyChanges_advance⟩

end Sys2Proof.Machine
end

section
/-!
PROOFS. What each instruction does to the state, and the components it leaves (R20, R27): O52, O53 and O54.
-/

namespace Sys2Proof.Machine

/-! ### The meanings of the instructions not named above -/

/-- OR writes V[X] | V[Y] to V[X] (R123). -/
theorem exec_or (x y : Reg) (s : State) : exec (.or x y) s = .next (s.setV x (s.getV x ||| s.getV y)) := rfl

/-- AND writes V[X] & V[Y] to V[X] (R124). -/
theorem exec_and (x y : Reg) (s : State) : exec (.and x y) s = .next (s.setV x (s.getV x &&& s.getV y)) := rfl

/-- XOR writes V[X] ^ V[Y] to V[X] (R125). -/
theorem exec_xor (x y : Reg) (s : State) : exec (.xor x y) s = .next (s.setV x (s.getV x ^^^ s.getV y)) := rfl

/-- RND takes a draw and writes the masked byte to V[X] (R131). -/
theorem exec_rnd (x : Reg) (nn : Byte) (s : State) :
    exec (.rnd x nn) s = .next (s.drawn.setV x (s.draw &&& nn)) := rfl

/-- JP_V0 jumps to the 16-bit sum (R104). -/
theorem exec_jpV0 (nnn : Addr) (s : State) :
    exec (.jpV0 nnn) s = .next (s.jump (zextAddr nnn + zextByte (s.getV 0))) := rfl

/-- SYS does nothing (R100). -/
theorem exec_sys (nnn : Addr) (s : State) : exec (.sys nnn) s = .next s := rfl

/-- SKP skips if the key is down (R161). -/
theorem exec_skp (x : Reg) (s : State) :
    exec (.skp x) s = .next (s.skipIf (s.keyDown (lowNibble (s.getV x)))) := rfl

/-- SKNP skips if the key is up (R162). -/
theorem exec_sknp (x : Reg) (s : State) :
    exec (.sknp x) s = .next (s.skipIf (!s.keyDown (lowNibble (s.getV x)))) := rfl

/-- ADD_I adds V[X] to I (R141). -/
theorem exec_addI (x : Reg) (s : State) : exec (.addI x) s = .next (s.setI (s.i + zextByte (s.getV x))) := rfl

/-- LD_F gives I the glyph's address (R142). -/
theorem exec_ldF (x : Reg) (s : State) :
    exec (.ldF x) s = .next (s.setI (glyphAddr s.params (lowNibble (s.getV x)))) := rfl

/-- LD_B stores the digits (R143). -/
theorem exec_ldB (x : Reg) (s : State) : exec (.ldB x) s = .next (s.storeI (decimalDigits (s.getV x))) := rfl

/-- ST_REGS stores V[0] to V[X] and moves I (R144). -/
theorem exec_stRegs (x : Reg) (s : State) : exec (.stRegs x) s = .next ((s.storeI (s.regsUpTo x)).stepI x) := rfl

/-- LD_REGS loads V[0] to V[X] and moves I (R145). -/
theorem exec_ldRegs (x : Reg) (s : State) : exec (.ldRegs x) s = .next ((s.loadRegsUpTo x).stepI x) := rfl

/-- The display and the collision of DRW's sprite, as its loop leaves them (R151). -/
def State.drawing (s : State) (x y : Reg) (n : BitVec 4) : Display × Bool :=
  drawSprite s.readI (s.getV x).toNat (s.getV y).toNat n.toNat s.disp

/-- DRW draws its sprite and writes the collision to VF (R151, R154). -/
theorem exec_drw (x y : Reg) (n : BitVec 4) (s : State) : exec (.drw x y n) s =
    .next ((s.setDisp (s.drawing x y n).1).setV flagReg (collisionFlag (s.drawing x y n).2)) := rfl

/-! ### The two instructions that can fault, and the one that can wait, when they complete -/

/-- RET completes by a pop. -/
theorem execRet_eq_next_iff (s t : State) :
    execRet s = .next t ↔ ∃ w rest, s.stack = w :: rest ∧ t = (s.setStack rest).jump w := by
  cases hstack : s.stack with
  | nil => simp [execRet_nil hstack]
  | cons w rest => simp [execRet_cons hstack, eq_comm]

/-- CALL completes by a push and a jump. -/
theorem execCall_eq_next_iff (nnn : Addr) (s t : State) :
    execCall nnn s = .next t ↔ s.stackFull = false ∧ t = (s.push s.pc).jump (zextAddr nnn) := by
  cases hfull : s.stackFull with
  | true => simp [execCall_full hfull]
  | false => simp [execCall_room hfull, eq_comm]

/-- LD_VX_K waits at its own address, or takes the key found. -/
theorem execLdVxK_eq_next_iff (x : Reg) (s t : State) : execLdVxK x s = .next t ↔
    (s.firstKeyDown = none ∧ t = s.jump s.pc0) ∨
    (∃ k, s.firstKeyDown = some k ∧ t = s.setV x (BitVec.ofNat 8 k.val)) := by
  unfold execLdVxK
  cases s.firstKeyDown <;> simp [eq_comm]

/-! ### Frames of the updates made of more than one write -/

/-- A frame may be widened. -/
theorem OnlyChanges.mono {few many : List Component} {s t : State} (h : OnlyChanges few s t) (hsub : few ⊆ many) :
    OnlyChanges many s t :=
  fun c hc => h c fun hmem => hc (hsub hmem)

/-- A change of the stack agrees with the start state on every other component. -/
theorem State.onlyChanges_setStack (s : State) (ws : List Word) : OnlyChanges [.stack] s (s.setStack ws) := by
  intro c hc
  cases c
  case stack => exact absurd List.mem_cons_self hc
  all_goals simp [Component.Agree]

/-- A push changes the stack alone. -/
theorem State.onlyChanges_push (s : State) (w : Word) : OnlyChanges [.stack] s (s.push w) :=
  s.onlyChanges_setStack (w :: s.stack)

/-- A draw changes the random source alone. -/
theorem State.onlyChanges_drawn (s : State) : OnlyChanges [.rng] s s.drawn := by
  intro c hc
  cases c
  case rng => exact absurd List.mem_cons_self hc
  all_goals simp [Component.Agree]

/-- A change of memory agrees with the start state on every other component. -/
theorem State.onlyChanges_withMem (s : State) (m : Memory) : OnlyChanges [.mem] s { s with mem := m } := by
  intro c hc
  cases c
  case mem => exact absurd List.mem_cons_self hc
  all_goals simp [Component.Agree, State.getV]

/-- A store changes memory alone. -/
theorem State.onlyChanges_storeI (s : State) (bs : List Byte) : OnlyChanges [.mem] s (s.storeI bs) :=
  s.onlyChanges_withMem _

/-- A load of registers changes the registers alone. -/
theorem State.onlyChanges_loadRegsUpTo (s : State) (x : Reg) : OnlyChanges [.v] s (s.loadRegsUpTo x) := by
  intro c hc
  cases c
  case v => exact absurd List.mem_cons_self hc
  all_goals simp [Component.Agree]

/-- Two changes in a row change at most what either of them changes. -/
theorem OnlyChanges.append {cs ds : List Component} {s t u : State} (hst : OnlyChanges cs s t)
    (htu : OnlyChanges ds t u) : OnlyChanges (cs ++ ds) s u :=
  (hst.mono (List.subset_append_left cs ds)).trans (htu.mono (List.subset_append_right cs ds))

/-- Settles O52: each instruction's update is made of writes of the components it is listed as a writer of. -/
theorem onlyListedWritersWrite : Obligations.OnlyListedWritersWrite := by
  intro i s t h
  cases i
  case ret =>
    obtain ⟨w, rest, -, rfl⟩ := (execRet_eq_next_iff s t).mp h
    exact ((s.onlyChanges_setStack rest).append (State.onlyChanges_jump _ w)).mono (by simp [mayWrite])
  case call nnn =>
    obtain ⟨-, rfl⟩ := (execCall_eq_next_iff nnn s t).mp h
    exact ((s.onlyChanges_push s.pc).append (State.onlyChanges_jump _ _)).mono (by simp [mayWrite])
  case ldVxK x =>
    obtain ⟨-, rfl⟩ | ⟨k, -, rfl⟩ := (execLdVxK_eq_next_iff x s t).mp h
    · exact (s.onlyChanges_jump _).mono (by simp [mayWrite])
    · exact (s.onlyChanges_setV x _).mono (by simp [mayWrite])
  all_goals obtain rfl := Host.Outcome.next.inj h
  case cls => exact s.onlyChanges_setDisp _
  case jp | jpV0 => exact s.onlyChanges_jump _
  case seImm | sneImm | seReg | sneReg | skp | sknp => exact s.onlyChanges_skipIf _
  case ldImm | addImm | ldReg | or | and | xor | ldVxDt => exact s.onlyChanges_setV _ _
  case addReg | sub | shr | subn | shl => exact s.onlyChanges_writeFlagThenResult _ _ _
  case ldI | addI | ldF => exact s.onlyChanges_setI _
  case ldDtVx => exact s.onlyChanges_setDt _
  case ldStVx => exact s.onlyChanges_setSt _
  case ldB => exact s.onlyChanges_storeI _
  case rnd => exact (s.onlyChanges_drawn.append (State.onlyChanges_setV _ _ _)).mono (by simp [mayWrite])
  case drw => exact ((s.onlyChanges_setDisp _).append (State.onlyChanges_setV _ _ _)).mono (by simp [mayWrite])
  case stRegs => exact (s.onlyChanges_storeI _).append (State.onlyChanges_setI _ _)
  case ldRegs => exact (s.onlyChanges_loadRegsUpTo _).append (State.onlyChanges_setI _ _)
  case sys => exact .refl _ s

/-- Settles O53: an instruction that is no writer of V keeps every register, and each writer's update names the
registers it writes. -/
theorem onlyDestinationsWritten : Obligations.OnlyDestinationsWritten := by
  intro i s t h
  have hframe : OnlyChanges (mayWrite i) s t := onlyListedWritersWrite i s t h
  cases i
  case ldImm x _ | addImm x _ | ldReg x _ | or x _ | and x _ | xor x _ | ldVxDt x =>
    obtain rfl := Host.Outcome.next.inj h
    exact s.onlyWritesRegs_setV x _
  case rnd x nn =>
    obtain rfl := Host.Outcome.next.inj h
    exact s.drawn.onlyWritesRegs_setV x _
  case drw x y n =>
    obtain rfl := Host.Outcome.next.inj h
    exact State.onlyWritesRegs_setV _ flagReg _
  case addReg x _ | sub x _ | shr x _ | subn x _ | shl x _ =>
    obtain rfl := Host.Outcome.next.inj h
    exact s.onlyWritesRegs_writeFlagThenResult x _ _
  case ldVxK x =>
    obtain ⟨-, rfl⟩ | ⟨k, -, rfl⟩ := (execLdVxK_eq_next_iff x s t).mp h
    · exact fun r _ => s.getV_jump _ r
    · exact s.onlyWritesRegs_setV x _
  case ldRegs x =>
    obtain rfl := Host.Outcome.next.inj h
    intro r hr
    have hgt : ¬r ≤ x := by simpa [destRegs] using hr
    rw [State.getV_stepI, State.getV_loadRegsUpTo, if_neg hgt]
  all_goals exact fun r _ => hframe .v (by simp [mayWrite]) r

/-- A block stored from ea(0) on stores to the addresses of its own bytes alone. -/
theorem State.onlyStoresTo_storeI (s : State) {bs : List Byte} {n : Nat} (hlen : bs.length = n) :
    OnlyStoresTo ((List.range n).map (ea s.i)) s (s.storeI bs) := by
  intro a ha
  refine s.readByte_storeI_other fun j hj heq => ha ?_
  exact List.mem_map.mpr ⟨j, List.mem_range.mpr (hlen ▸ hj), heq.symm⟩

/-- Settles O54: an instruction that is no writer of MEM keeps every byte, and FX33 and FX55 store one block. -/
theorem onlyAddressedBytesStored : Obligations.OnlyAddressedBytesStored := by
  intro i s t h
  have hframe : OnlyChanges (mayWrite i) s t := onlyListedWritersWrite i s t h
  cases i
  case ldB x =>
    obtain rfl := Host.Outcome.next.inj h
    exact s.onlyStoresTo_storeI rfl
  case stRegs x =>
    obtain rfl := Host.Outcome.next.inj h
    exact s.onlyStoresTo_storeI (s.length_regsUpTo x)
  all_goals exact fun a _ => hframe .mem (by simp [mayWrite]) a

end Sys2Proof.Machine
end

section
/-!
PROOFS. The invariant of reachable states: every component of it after an instruction, a step and a host event, and O58,
O59 and O60 (R20, R26, R101, R176).
-/

namespace Sys2Proof.Machine

/-- The invariant is about memory, parameters, stack and PC alone. -/
theorem Inv.congr {s t : State} (hs : Inv s) (hmem : t.mem = s.mem) (hparams : t.params = s.params)
    (hstack : t.stack = s.stack) (hpc : t.pc = s.pc) : Inv t where
  mem_wf := hmem ▸ hs.mem_wf
  params_wf := hparams ▸ hs.params_wf
  stack_le := hparams ▸ hstack ▸ hs.stack_le
  saved_range := hstack ▸ hs.saved_range
  pc_le := hpc ▸ hs.pc_le

/-- The invariant holds after a jump to any address in PC's range. -/
theorem Inv.jump {s : State} (hs : Inv s) {w : Word} (hw : w.toNat ≤ 0x10FE) : Inv (s.jump w) :=
  { hs with pc_le := hw }

/-- From an address a fetch succeeds at, the advance does not wrap (R83). -/
theorem State.advance_pc_toNat {s : State} (hpc : s.pc.toNat ≤ 0xFFE) : s.advance.pc.toNat = s.pc.toNat + 2 := by
  rw [State.advance_pc]
  bv_omega

/-- The fetch advance keeps the invariant from every address a fetch succeeds at. -/
theorem Inv.advance {s : State} (hs : Inv s) (hpc : s.pc.toNat ≤ 0xFFE) : Inv s.advance :=
  hs.jump (by
    have hadv : (s.pc + 2).toNat = s.pc.toNat + 2 := State.advance_pc_toNat hpc
    omega)

/-- A pop keeps the invariant, and the PC popped is in the range of the saved ones (R101). -/
theorem Inv.setStack_jump {s : State} (hs : Inv s) {w : Word} {rest : List Word} (hstack : s.stack = w :: rest) :
    Inv ((s.setStack rest).jump w) where
  mem_wf := hs.mem_wf
  params_wf := hs.params_wf
  stack_le := fun d hd => by
    have hle : s.stack.length ≤ d := hs.stack_le d hd
    rw [hstack] at hle
    exact Nat.le_of_succ_le hle
  saved_range := fun v hv => hs.saved_range v (hstack ▸ List.mem_cons_of_mem w hv)
  pc_le := by
    have hw := hs.saved_range w (hstack ▸ List.mem_cons_self)
    exact hw.2.trans (by decide)

/-- A push with room keeps the invariant, where the advanced PC is one CALL can save (R103). -/
theorem Inv.push {s : State} (hs : Inv s) (hroom : s.stackFull = false) (hlo : 2 ≤ s.pc.toNat)
    (hhi : s.pc.toNat ≤ 0x1000) : Inv (s.push s.pc) where
  mem_wf := hs.mem_wf
  params_wf := hs.params_wf
  stack_le := fun d hd => by
    have hle : s.stack.length ≤ d := hs.stack_le d hd
    have hne : s.stack.length ≠ d := fun heq => by
      have hfull : s.stackFull = true := s.stackFull_iff.mpr (heq ▸ hd)
      rw [hroom] at hfull
      cases hfull
    exact Nat.lt_of_le_of_ne hle hne
  saved_range := fun v hv => by
    obtain rfl | hv := List.mem_cons.mp hv
    · exact ⟨hlo, hhi⟩
    · exact hs.saved_range v hv
  pc_le := hs.pc_le

/-- A store of a block keeps the invariant (R56). -/
theorem Inv.storeI {s : State} (hs : Inv s) (bs : List Byte) : Inv (s.storeI bs) :=
  { hs with mem_wf := Memory.wf_storeI s.i hs.mem_wf }

/-- A write of I keeps the invariant. -/
theorem Inv.setI {s : State} (hs : Inv s) (w : Word) : Inv (s.setI w) := hs.congr rfl rfl rfl rfl

/-- A load of registers keeps the invariant. -/
theorem Inv.loadRegsUpTo {s : State} (hs : Inv s) (x : Reg) : Inv (s.loadRegsUpTo x) :=
  hs.congr (s.loadRegsUpTo_mem x) (s.loadRegsUpTo_params x) (s.loadRegsUpTo_stack x) (s.loadRegsUpTo_pc x)

/-- A skip from an address a fetch leaves keeps PC in its range (R110). -/
theorem Inv.skipIf {s : State} (hs : Inv s) (hhi : s.pc.toNat ≤ 0x1000) (c : Bool) : Inv (s.skipIf c) := by
  rw [State.skipIf_eq_jump]
  refine hs.jump ?_
  split
  · bv_omega
  · exact hs.pc_le

/-- An address NNN is in PC's range. -/
theorem zextAddr_le (nnn : Addr) : (zextAddr nnn).toNat ≤ 0xFFF := by
  rw [zextAddr_toNat]
  exact Nat.le_of_lt_succ nnn.isLt

/-- The sum of BNNN is exact: it is far below 65536 (R104). -/
theorem zextAddr_add_zextByte_toNat (nnn : Addr) (b : Byte) :
    (zextAddr nnn + zextByte b).toNat = nnn.toNat + b.toNat := by
  simp only [zextAddr, zextByte]
  bv_omega

/-- Every instruction that completes keeps the invariant, from a PC the fetch can have advanced to. -/
theorem Inv.exec {i : Instr} {s t : State} (hs : Inv s) (hlo : 2 ≤ s.pc.toNat) (hhi : s.pc.toNat ≤ 0x1000)
    (h : exec i s = .next t) : Inv t := by
  cases i
  case ret =>
    obtain ⟨w, rest, hstack, rfl⟩ := (execRet_eq_next_iff s t).mp h
    exact hs.setStack_jump hstack
  case call nnn =>
    obtain ⟨hroom, rfl⟩ := (execCall_eq_next_iff nnn s t).mp h
    exact (hs.push hroom hlo hhi).jump ((zextAddr_le nnn).trans (by decide))
  case ldVxK x =>
    obtain ⟨-, rfl⟩ | ⟨k, -, rfl⟩ := (execLdVxK_eq_next_iff x s t).mp h
    · exact hs.jump (by rw [State.pc0]; bv_omega)
    · exact hs.congr rfl rfl rfl rfl
  all_goals obtain rfl := Host.Outcome.next.inj h
  case jp nnn => exact hs.jump ((zextAddr_le nnn).trans (by decide))
  case jpV0 nnn => exact hs.jump (by rw [zextAddr_add_zextByte_toNat]; omega)
  case seImm | sneImm | seReg | sneReg | skp | sknp => exact hs.skipIf hhi _
  case ldB => exact hs.storeI _
  case stRegs x => exact (hs.storeI (s.regsUpTo x)).setI _
  case ldRegs x => exact (hs.loadRegsUpTo x).setI _
  all_goals exact hs.congr rfl rfl rfl rfl

/-- Settles O59: a step that completes is an instruction from the advanced PC. -/
theorem stepKeepsInvariant : Obligations.StepKeepsInvariant := by
  intro s t hs h
  obtain ⟨hpc, i, -, hexec⟩ := exists_exec_of_step_next h
  have hadv : s.advance.pc.toNat = s.pc.toNat + 2 := State.advance_pc_toNat hpc
  exact (hs.advance hpc).exec (by omega) (by omega) hexec

/-- The state a step's fault leaves meets the invariant (R176). -/
theorem Inv.afterFault {s : State} (hs : Inv s) {f : Fault} (hf : StepFault s f) : Inv (s.afterFault f) := by
  cases hf with
  | fetch => exact hs
  | decode hpc | ret hpc | call hpc => exact hs.advance hpc

/-- The event STEP leaves the next state of a step that completes, and answers Ok (R84). -/
theorem event_step_of_next {s t : State} (h : step s = .next t) : event .step s = (t, .ok) := by
  rw [event, stepEvent, h]

/-- LOAD writes the image or nothing (R201). -/
theorem event_load (base : Addr) (bytes : List Byte) (s : State) : event (.load base bytes) s =
    if base.toNat + bytes.length ≤ 4096 then ({ s with mem := s.mem.load base.toNat bytes }, .ok)
    else (s, .fault (.loadError base bytes.length)) := by
  by_cases hfits : base.toNat + bytes.length ≤ 4096
  case pos => simp [event, loadEvent, loadTooLong, hfits]
  case neg => simp [event, loadEvent, loadTooLong, hfits, Nat.lt_of_not_le hfits, State.afterFault]

/-- RESET gives the invariant from the legality of the parameters alone, which it keeps (R200). -/
theorem State.hostReset_inv {s : State} (hparams : s.params.wf) : Inv s.hostReset where
  mem_wf := State.reset_mem_wf
  params_wf := hparams
  stack_le := fun d _ => Nat.zero_le d
  saved_range := nofun
  pc_le := (by decide : Config.programOrigin.toNat ≤ 0x10FE)

/-- Settles O58: the reset state is what RESET leaves of it. -/
theorem resetMeetsInvariant : Obligations.ResetMeetsInvariant :=
  State.hostReset_inv (s := State.reset) (by decide)

/-- A LOAD that fits keeps the invariant (R201). -/
theorem Inv.load {s : State} (hs : Inv s) {a : Nat} {bytes : List Byte} (hfits : a + bytes.length ≤ Config.memSize) :
    Inv { s with mem := s.mem.load a bytes } :=
  { hs with mem_wf := Memory.wf_load hfits hs.mem_wf }

/-- Every host event keeps the invariant. -/
theorem Inv.event {s : State} (hs : Inv s) (e : HostEvent) : Inv (event e s).1 := by
  cases e with
  | reset => exact State.hostReset_inv hs.params_wf
  | load base bytes =>
    rw [event_load]
    split
    case isTrue hfits => exact hs.load hfits
    case isFalse => exact hs
  | step =>
    obtain ⟨t, ht⟩ | ⟨f, hf⟩ := step_next_or_fault s
    · rw [event_step_of_next ht]
      exact stepKeepsInvariant s t hs ht
    · rw [event_step_of_fault hf]
      exact hs.afterFault (stepFault_of_step hf)
  | tick | keyWrite | displayRead | soundRead => exact hs.congr rfl rfl rfl rfl

/-- Settles O60: by induction over the events, each of which keeps the invariant. -/
theorem eventsKeepInvariant : Obligations.EventsKeepInvariant := by
  intro es
  induction es with
  | nil => exact fun _ hs => hs
  | cons e es ih => exact fun s hs => ih _ (hs.event e)

end Sys2Proof.Machine
end

section
/-!
PROOFS. The components an instruction does not read: O55 and O56 (R30, R34); and O57, who moves the delay timer (R183,
R211).
-/

namespace Sys2Proof.Machine

/-- A change of the state an instruction completes in; a fault is kept. -/
def mapNext (f : State → State) : Result → Result
  | .next t => .next (f t)
  | .fault r => .fault r
  | .refused r => .refused r

/-- The state with this sound timer and this random source: the two components only FX18 and CXNN name. -/
def State.setUnread (s : State) (b : Byte) (g : Rng) : State := { s with st := b, rng := g }

/-- A skip tests nothing but its condition. -/
theorem State.skipIf_setUnread (s : State) (b : Byte) (g : Rng) (c : Bool) :
    (s.setUnread b g).skipIf c = (s.skipIf c).setUnread b g := by
  cases c <;> rfl

/-- Every instruction but FX18 and CXNN runs alike whatever the sound timer and the random source are, and leaves
them. -/
theorem exec_setUnread {i : Instr} (hst : ∀ x, i ≠ .ldStVx x) (hrnd : ∀ x nn, i ≠ .rnd x nn) (s : State) (b : Byte)
    (g : Rng) : exec i (s.setUnread b g) = mapNext (State.setUnread · b g) (exec i s) := by
  cases i
  case ldStVx x => exact absurd rfl (hst x)
  case rnd x nn => exact absurd rfl (hrnd x nn)
  case ret =>
    rw [exec_ret, exec_ret]
    cases hstack : s.stack with
    | nil => rw [execRet_nil hstack, execRet_nil (s := s.setUnread b g) hstack]; rfl
    | cons w rest => rw [execRet_cons hstack, execRet_cons (s := s.setUnread b g) hstack]; rfl
  case call nnn =>
    rw [exec_call, exec_call]
    cases hfull : s.stackFull with
    | true => rw [execCall_full hfull, execCall_full (s := s.setUnread b g) hfull]; rfl
    | false => rw [execCall_room hfull, execCall_room (s := s.setUnread b g) hfull]; rfl
  case ldVxK x =>
    have hkey : (s.setUnread b g).firstKeyDown = s.firstKeyDown := rfl
    rw [exec_ldVxK, exec_ldVxK, execLdVxK, execLdVxK, hkey]
    cases s.firstKeyDown <;> rfl
  case seImm | sneImm | seReg | sneReg | skp | sknp =>
    exact congrArg Host.Outcome.next (s.skipIf_setUnread b g _)
  all_goals rfl

/-- CXNN is the only instruction that writes the random source (R34). -/
theorem rng_notMem_mayWrite {i : Instr} (hi : ∀ x nn, i ≠ .rnd x nn) : .rng ∉ mayWrite i := by
  cases i
  case rnd x nn => exact absurd rfl (hi x nn)
  all_goals simp [mayWrite]

/-- FX18 is the only instruction that writes the sound timer (R30). -/
theorem st_notMem_mayWrite {i : Instr} (hi : ∀ x, i ≠ .ldStVx x) : .st ∉ mayWrite i := by
  cases i
  case ldStVx x => exact absurd rfl (hi x)
  all_goals simp [mayWrite]

/-- FX15 is the only instruction that writes the delay timer (R29). -/
theorem dt_notMem_mayWrite {i : Instr} (hi : ∀ x, i ≠ .ldDtVx x) : .dt ∉ mayWrite i := by
  cases i
  case ldDtVx x => exact absurd rfl (hi x)
  all_goals simp [mayWrite]

/-- Settles O55: FX18 overwrites the timer it does not read, CXNN draws the same byte, and the others run alike. -/
theorem noInstructionReadsSoundTimer : Obligations.NoInstructionReadsSoundTimer := by
  intro i s b
  by_cases hst : ∃ x, i = .ldStVx x
  case pos =>
    obtain ⟨x, rfl⟩ := hst
    exact ⟨fun t h => ⟨t, h, .refl _ t⟩, nofun⟩
  by_cases hrnd : ∃ x nn, i = .rnd x nn
  case pos =>
    obtain ⟨x, nn, rfl⟩ := hrnd
    refine ⟨fun t h => ⟨t.setSt b, ?_, t.onlyChanges_setSt b⟩, nofun⟩
    obtain rfl := Host.Outcome.next.inj h
    rfl
  simp only [not_exists] at hst hrnd
  have hrun : exec i (s.setUnread b s.rng) = mapNext (State.setUnread · b s.rng) (exec i s) :=
    exec_setUnread hst hrnd s b s.rng
  refine ⟨fun t h => ⟨t.setSt b, ?next, t.onlyChanges_setSt b⟩, fun f h => ?fault⟩
  case next =>
    have hrng : t.rng = s.rng := onlyListedWritersWrite i s t h .rng (rng_notMem_mayWrite hrnd)
    have hsame : t.setUnread b s.rng = t.setSt b := by rw [← hrng]; rfl
    rw [h] at hrun
    exact hrun.trans (congrArg Host.Outcome.next hsame)
  case fault =>
    rw [h] at hrun
    exact hrun

/-- Settles O56: FX18 writes the sound timer alone, and the others run alike. -/
theorem onlyRndObservesRandomSource : Obligations.OnlyRndObservesRandomSource := by
  intro i s g hrnd
  by_cases hst : ∃ x, i = .ldStVx x
  case pos =>
    obtain ⟨x, rfl⟩ := hst
    refine ⟨fun t h => ?_, nofun⟩
    obtain rfl := Host.Outcome.next.inj h
    exact ⟨rfl, rfl⟩
  simp only [not_exists] at hst
  have hrun : exec i (s.setUnread s.st g) = mapNext (State.setUnread · s.st g) (exec i s) :=
    exec_setUnread hst hrnd s s.st g
  refine ⟨fun t h => ⟨?next, onlyListedWritersWrite i s t h .rng (rng_notMem_mayWrite hrnd)⟩, fun f h => ?fault⟩
  case next =>
    have hkept : t.st = s.st := onlyListedWritersWrite i s t h .st (st_notMem_mayWrite hst)
    have hsame : t.setUnread s.st g = { t with rng := g } := by rw [← hkept]; rfl
    rw [h] at hrun
    exact hrun.trans (congrArg Host.Outcome.next hsame)
  case fault =>
    rw [h] at hrun
    exact hrun

/-! ### The delay timer -/

/-- What a STEP does to the delay timer: nothing, unless it runs FX15. -/
theorem event_step_dt {s : State} (hd : ∀ x, decodeWord s.fetchWord ≠ .ok (.ldDtVx x)) :
    (event .step s).1.dt = s.dt := by
  obtain ⟨t, ht⟩ | ⟨f, hf⟩ := step_next_or_fault s
  · obtain ⟨-, i, hi, hexec⟩ := exists_exec_of_step_next ht
    rw [event_step_of_next ht]
    exact onlyListedWritersWrite i s.advance t hexec .dt (dt_notMem_mayWrite fun x hx => hd x (hx ▸ hi))
  · exact (faultLeavesState s f hf).2.2 .dt (by decide)

/-- Every event but TICK, RESET and a STEP of FX15 leaves the delay timer. -/
theorem event_dt {e : HostEvent} {s : State} (htick : e ≠ .tick) (hreset : e ≠ .reset)
    (hstep : ¬(e = .step ∧ ∃ x, decodeWord s.fetchWord = .ok (.ldDtVx x))) : (event e s).1.dt = s.dt := by
  cases e
  case tick | reset => contradiction
  case step => exact event_step_dt fun x hx => hstep ⟨rfl, x, hx⟩
  case load base bytes =>
    rw [event_load]
    split <;> rfl
  all_goals rfl

/-- Settles O57: TICK takes 1, RESET gives 0, and only a STEP of FX15 is left to move the timer otherwise. -/
theorem delayTimerOnlyRisesByWrite : Obligations.DelayTimerOnlyRisesByWrite := by
  intro e s
  have htick : (event .tick s).1.dt.toNat = s.dt.toNat - 1 := tickTimer_toNat s.dt
  have hreset : (event .reset s).1.dt.toNat = 0 := rfl
  refine ⟨fun hrise => ?rise, fun hfall => ?fall, by rintro rfl; exact htick⟩
  case rise =>
    by_contra hno
    have hkept : (event e s).1.dt = s.dt := by
      refine event_dt ?_ ?_ hno
      · rintro rfl; omega
      · rintro rfl; omega
    exact absurd hrise (by rw [hkept]; exact Nat.lt_irrefl _)
  case fall =>
    by_contra hno
    obtain ⟨hnotTick, hnotReset, hnotStep⟩ := by simpa only [not_or] using hno
    exact absurd hfall (by rw [event_dt hnotTick hnotReset hnotStep]; exact Nat.lt_irrefl _)

end Sys2Proof.Machine
end

section
/-!
PROOFS. Blocks of bytes: what FX33 and FX55 store, what FX65 loads, what the next fetch sees of a store or a LOAD, and
O33, O34, O35, O36, O37, O48 and O49 (R56, R57, R64, R143 to R145, R172, R201).
-/

namespace Sys2Proof.Machine

/-! ### What FX33 and FX55 leave in memory -/

/-- The byte at ea(j) after FX33 is digit j (R143). -/
theorem State.readByte_storeI_decimalDigits (s : State) (b : Byte) {j : Nat} (hj : j < 3) :
    (s.storeI (decimalDigits b)).readByte (ea s.i j) = (decimalDigits b)[j] :=
  s.readByte_storeI (bs := decimalDigits b) (show 3 ≤ Config.memSize by decide) hj

/-- The byte at ea(r) after FX55 is V[r], for every r up to X (R144). -/
theorem State.readByte_storeI_regsUpTo (s : State) {x r : Reg} (hr : r ≤ x) :
    (s.storeI (s.regsUpTo x)).readByte (ea s.i r.val) = s.getV r := by
  have hlt : r.val < (s.regsUpTo x).length := by
    rw [State.length_regsUpTo]
    exact Nat.lt_succ_of_le hr
  have hfits : (s.regsUpTo x).length ≤ Config.memSize := by
    rw [State.length_regsUpTo]
    exact Nat.le_trans x.isLt (by decide)
  rw [s.readByte_storeI hfits hlt, State.getElem_regsUpTo]

/-- A number below 256 is the value of its byte. -/
theorem ofNat8_toNat {n : Nat} (h : n < 256) : (BitVec.ofNat 8 n).toNat = n := by
  rw [BitVec.toNat_ofNat, Nat.mod_eq_of_lt h]

/-- I moves past a block of X + 1 bytes modulo 65536 (D7). -/
theorem add_blockLength_toNat (i : Word) (x : Reg) :
    (i + BitVec.ofNat 16 (x.val + 1)).toNat = (i.toNat + x.val + 1) % 65536 := by
  rw [BitVec.toNat_add, BitVec.toNat_ofNat]
  omega

/-- Settles O33: FX33 is one store of three digits, each of which fits its byte. -/
theorem decimalDigitsStored : Obligations.DecimalDigitsStored := by
  intro x s
  have hlt : (s.getV x).toNat < 256 := (s.getV x).isLt
  refine ⟨decodeWord_encode (i := .ldB x) rfl, _, exec_ldB x s, ?hundreds, ?tens, ?ones,
    s.onlyStoresTo_storeI (bs := decimalDigits (s.getV x)) rfl, s.onlyChanges_storeI _⟩
  case hundreds | tens | ones =>
    rw [s.readByte_storeI_decimalDigits _ (by decide)]
    exact ofNat8_toNat (by omega)

/-- Settles O34: FX55 is one store of X + 1 registers and one write of I. -/
theorem registersStored : Obligations.RegistersStored := by
  intro x s
  exact ⟨decodeWord_encode (i := .stRegs x) rfl, _, exec_stRegs x s, fun r hr => s.readByte_storeI_regsUpTo hr,
    s.onlyStoresTo_storeI (s.length_regsUpTo x), add_blockLength_toNat s.i x,
    onlyListedWritersWrite (.stRegs x) s _ (exec_stRegs x s)⟩

/-- Settles O35: FX65 reads a register up to X from its address and keeps the others. -/
theorem registersLoaded : Obligations.RegistersLoaded := by
  intro x s
  refine ⟨decodeWord_encode (i := .ldRegs x) rfl, _, exec_ldRegs x s, fun r hr => ?loaded, fun r hr => ?kept,
    add_blockLength_toNat s.i x, onlyListedWritersWrite (.ldRegs x) s _ (exec_ldRegs x s)⟩
  case loaded => rw [State.getV_stepI, State.getV_loadRegsUpTo, if_pos hr, State.readI]
  case kept => rw [State.getV_stepI, State.getV_loadRegsUpTo, if_neg (not_le.mpr hr)]

/-- Settles O36: FX65 reads V[r] back from the address FX55 stored it to. -/
theorem storeThenLoadRestoresRegisters : Obligations.StoreThenLoadRestoresRegisters := by
  intro x s t u h hmem hi
  obtain rfl := Host.Outcome.next.inj h
  refine ⟨_, exec_ldRegs x u, fun r hr => ?_⟩
  rw [State.getV_stepI, State.getV_loadRegsUpTo, if_pos hr, State.readI, hi, State.readByte, hmem]
  exact s.readByte_storeI_regsUpTo hr

/-! ### LOAD -/

/-- LOAD of an image that fits (R201). -/
theorem event_load_of_fits {base : Addr} {bytes : List Byte} (s : State) (hfits : base.toNat + bytes.length ≤ 4096) :
    event (.load base bytes) s = ({ s with mem := s.mem.load base.toNat bytes }, .ok) := by
  rw [event_load, if_pos hfits]

/-- Byte k of an image stands at its base plus k. -/
theorem Memory.read_load_image (m : Memory) (a : Nat) {bytes : List Byte} {k : Nat} (hk : k < bytes.length) :
    (m.load a bytes).read (a + k) = bytes[k] := by
  simp [Memory.read_load, hk]

/-- A byte outside an image is kept. -/
theorem Memory.read_load_other (m : Memory) {a c : Nat} {bytes : List Byte} (h : c < a ∨ a + bytes.length ≤ c) :
    (m.load a bytes).read c = m.read c := by
  rw [Memory.read_load]
  split
  case isTrue hle =>
    have hpast : bytes.length ≤ c - a := by omega
    rw [List.getD_eq_default _ _ hpast]
  case isFalse => rfl

/-- Settles O48: inside the image its bytes, outside it the old ones. -/
theorem loadWritesImage : Obligations.LoadWritesImage := by
  intro base bytes s hfits
  exact ⟨_, event_load_of_fits s hfits, fun k hk => s.mem.read_load_image base.toNat hk,
    fun a ha => s.mem.read_load_other ha, s.onlyChanges_withMem _⟩

/-- Settles O49: a LOAD is refused whole exactly when the image passes the end of memory. -/
theorem loadNeverTruncates : Obligations.LoadNeverTruncates := by
  intro base bytes s
  refine ⟨fun hlong => ?refused, fun f hf => ?fits⟩
  case refused => rw [event_load, if_neg (Nat.not_le.mpr hlong)]
  case fits =>
    obtain ⟨hlong, -⟩ := eq_loadError_of_event_load hf
    exact of_decide_eq_true hlong

/-! ### The next fetch -/

/-- Entry k of the first n addresses of an access is the k-th. -/
theorem lt_and_eq_of_getElem?_map_range {f : Nat → Nat} {n k a : Nat} (h : ((List.range n).map f)[k]? = some a) :
    k < n ∧ f k = a := by
  obtain ⟨hk, rfl⟩ := List.getElem?_eq_some_iff.mp h
  exact ⟨by simpa using hk, by simp⟩

/-- The byte at entry k of the addresses stored to is the byte stored there, for all 35 instructions. -/
theorem readByte_of_storedAddrs {i : Instr} {s t : State} (h : exec i s = .next t) {k a : Nat}
    (ha : (storedAddrs s i)[k]? = some a) : t.readByte a = storedByte s k i := by
  cases i
  case ldB x =>
    obtain rfl := Host.Outcome.next.inj h
    obtain ⟨hk, rfl⟩ := lt_and_eq_of_getElem?_map_range ha
    rw [s.readByte_storeI_decimalDigits _ hk]
    interval_cases k <;> rfl
  case stRegs x =>
    obtain rfl := Host.Outcome.next.inj h
    obtain ⟨hk, rfl⟩ := lt_and_eq_of_getElem?_map_range ha
    have hr : (Fin.ofNat 16 k).val = k := Nat.mod_eq_of_lt (by omega)
    have hle : Fin.ofNat 16 k ≤ x := by rw [Fin.le_def, hr]; omega
    have hread := s.readByte_storeI_regsUpTo hle
    rw [hr] at hread
    exact hread
  all_goals cases ha

/-- Settles O37: the bytes of the fetched word are read from the memory the store or the LOAD left. -/
theorem storeIsSeenByFetch : Obligations.StoreIsSeenByFetch := by
  refine ⟨fun i s t u h hmem => ?store, fun base bytes s u hfits hmem k hk => ?load⟩
  case store =>
    have hread : ∀ a, u.readByte a = t.readByte a := fun a => congrArg (Memory.read · a) hmem
    have hother : OnlyStoresTo (storedAddrs s i) s t := onlyAddressedBytesStored i s t h
    simp only [State.highByte_fetchWord, State.lowByte_fetchWord, hread]
    refine ⟨fun k a ha => ?_, hother _, hother _⟩
    have hstored : t.readByte a = storedByte s k i := readByte_of_storedAddrs h ha
    exact ⟨fun hpc => hpc ▸ hstored, fun hpc => hpc ▸ hstored⟩
  case load =>
    rw [event_load_of_fits s hfits] at hmem
    have hread : u.readByte (base.toNat + k) = bytes[k] := by
      rw [State.readByte, hmem]
      exact s.mem.read_load_image base.toNat hk
    rw [State.highByte_fetchWord, State.lowByte_fetchWord]
    exact ⟨fun hpc => hpc ▸ hread, fun hpc => hpc ▸ hread⟩

end Sys2Proof.Machine
end

section
/-!
PROOFS. The sprite drawing loop as a list of cells, each flipped once, and O39, O40 and O41 (R151 to R156).
-/

namespace Sys2Proof.Machine

/-! ### The cells of a sprite -/

/-- Row and column offset of the sprite bits of value 1, in the loop's order (R151, R153). -/
def spriteOffsets (rowByte : Nat → Byte) (n : Nat) : List (Nat × Nat) :=
  (List.range n ×ˢ List.range 8).filter fun p => (rowByte p.1).getLsbD (7 - p.2)

/-- The cell the pixel of row offset `p.1` and column offset `p.2` goes to (R152). -/
def spriteCell (vx vy : Nat) (p : Nat × Nat) : Fin 64 × Fin 32 := (Fin.ofNat 64 (vx + p.2), Fin.ofNat 32 (vy + p.1))

/-- A cell flipped, and whether it held 1 before. -/
def drawCell (acc : Display × Bool) (p : Fin 64 × Fin 32) : Display × Bool :=
  (acc.1.flip p.1 p.2, acc.2 || acc.1.cell p.1 p.2)

/-- The drawing loop flips the sprite's cells one after another. -/
theorem drawSprite_eq_foldl_drawCell (rowByte : Nat → Byte) (vx vy n : Nat) (d : Display) :
    drawSprite rowByte vx vy n d = ((spriteOffsets rowByte n).map (spriteCell vx vy)).foldl drawCell (d, false) := by
  simp only [drawSprite, drawRow, spriteOffsets, List.foldl_map, List.foldl_filter, SProd.sprod, List.product,
    List.foldl_flatMap]
  rfl

/-- An offset stands in the list when its sprite bit is 1. -/
theorem mem_spriteOffsets_iff (rowByte : Nat → Byte) (n r c : Nat) :
    (r, c) ∈ spriteOffsets rowByte n ↔ r < n ∧ c < 8 ∧ (rowByte r).getLsbD (7 - c) = true := by
  simp only [spriteOffsets, List.mem_filter, List.mem_product, List.mem_range, and_assoc]

/-- The pixel of row offset r and column offset c goes to column (vx + c) mod 64 and row (vy + r) mod 32. -/
theorem spriteCell_eq_iff (vx vy r c : Nat) (px : Fin 64) (py : Fin 32) :
    spriteCell vx vy (r, c) = (px, py) ↔ px.val = (vx + c) % 64 ∧ py.val = (vy + r) % 32 := by
  simp only [spriteCell, Prod.mk.injEq, Fin.ext_iff, Fin.val_ofNat, eq_comm]

/-- The sprite is narrower and lower than the screen, so no two of its pixels share a cell. -/
theorem nodup_spriteCells (rowByte : Nat → Byte) (vx vy : Nat) {n : Nat} (hn : n ≤ 32) :
    ((spriteOffsets rowByte n).map (spriteCell vx vy)).Nodup := by
  refine List.Nodup.map_on ?_ ((List.nodup_range.product List.nodup_range).filter _)
  rintro ⟨r, c⟩ hp ⟨r', c'⟩ hp' heq
  obtain ⟨hr, hc, -⟩ := (mem_spriteOffsets_iff rowByte n r c).mp hp
  obtain ⟨hr', hc', -⟩ := (mem_spriteOffsets_iff rowByte n r' c').mp hp'
  obtain ⟨hx, hy⟩ := (spriteCell_eq_iff vx vy r c _ _).mp heq
  simp only [Fin.val_ofNat] at hx hy
  exact Prod.ext (by omega) (by omega)

/-- The cells drawn are the cells under a sprite bit of value 1. -/
theorem mem_spriteCells_iff (s : State) (x y : Reg) (n : BitVec 4) (px : Fin 64) (py : Fin 32) :
    (px, py) ∈ (spriteOffsets s.readI n.toNat).map (spriteCell (s.getV x).toNat (s.getV y).toNat) ↔
      SpritePixel s x y n px py := by
  simp only [List.mem_map, Prod.exists, mem_spriteOffsets_iff, spriteCell_eq_iff, and_assoc]
  rfl

/-! ### Cells and collision after a list of distinct cells is drawn -/

/-- Each cell of the list is flipped, and no other. -/
theorem cell_foldl_drawCell (x : Fin 64) (y : Fin 32) : ∀ {cells : List (Fin 64 × Fin 32)}, cells.Nodup →
    ∀ acc : Display × Bool, (cells.foldl drawCell acc).1.cell x y =
      if (x, y) ∈ cells then !acc.1.cell x y else acc.1.cell x y
  | [], _, acc => by simp
  | p :: cells, hnodup, acc => by
    obtain ⟨hp, hrest⟩ := List.nodup_cons.mp hnodup
    rw [List.foldl_cons, cell_foldl_drawCell x y hrest]
    by_cases h : (x, y) = p
    · subst h
      simp [hp, drawCell, Display.cell_flip]
    · have hne : ¬(x = p.1 ∧ y = p.2) := fun hxy => h (Prod.ext hxy.1 hxy.2)
      simp [h, hne, drawCell, Display.cell_flip]

/-- A collision is seen when a cell of the list held 1 at the start: no cell is drawn before its own turn. -/
theorem collision_foldl_drawCell : ∀ {cells : List (Fin 64 × Fin 32)}, cells.Nodup →
    ∀ acc : Display × Bool, (cells.foldl drawCell acc).2 = true ↔
      acc.2 = true ∨ ∃ p ∈ cells, acc.1.cell p.1 p.2 = true
  | [], _, acc => by simp
  | p :: cells, hnodup, acc => by
    obtain ⟨hp, hrest⟩ := List.nodup_cons.mp hnodup
    have hkept : ∀ q ∈ cells, (drawCell acc p).1.cell q.1 q.2 = acc.1.cell q.1 q.2 := fun q hq => by
      have hne : ¬(q.1 = p.1 ∧ q.2 = p.2) := fun hqp => hp (Prod.ext hqp.1 hqp.2 ▸ hq)
      rw [drawCell, Display.cell_flip, if_neg hne]
    have hlater : (∃ q ∈ cells, (drawCell acc p).1.cell q.1 q.2 = true) ↔ ∃ q ∈ cells, acc.1.cell q.1 q.2 = true :=
      exists_congr fun q => and_congr_right fun hq => by rw [hkept q hq]
    rw [List.foldl_cons, collision_foldl_drawCell hrest, hlater, List.exists_mem_cons_iff, ← or_assoc]
    simp only [drawCell, Bool.or_eq_true]

/-! ### DRW -/

/-- A sprite has at most 15 rows. -/
theorem height_le (n : BitVec 4) : n.toNat ≤ 32 := Nat.le_trans (Nat.le_of_lt n.isLt) (by decide)

/-- DRW flips the cells under a sprite bit of value 1 and no other (R151). -/
theorem State.cell_drawing_of_spritePixel {s : State} {x y : Reg} {n : BitVec 4} {px : Fin 64} {py : Fin 32}
    (h : SpritePixel s x y n px py) : (s.drawing x y n).1.cell px py = !s.disp.cell px py := by
  rw [State.drawing, drawSprite_eq_foldl_drawCell, cell_foldl_drawCell _ _ (nodup_spriteCells _ _ _ (height_le n)),
    if_pos ((mem_spriteCells_iff s x y n px py).mpr h)]

/-- DRW keeps every other cell (R151). -/
theorem State.cell_drawing_of_not_spritePixel {s : State} {x y : Reg} {n : BitVec 4} {px : Fin 64} {py : Fin 32}
    (h : ¬SpritePixel s x y n px py) : (s.drawing x y n).1.cell px py = s.disp.cell px py := by
  rw [State.drawing, drawSprite_eq_foldl_drawCell, cell_foldl_drawCell _ _ (nodup_spriteCells _ _ _ (height_le n)),
    if_neg fun hmem => h ((mem_spriteCells_iff s x y n px py).mp hmem)]

/-- DRW sees a collision when a cell under a sprite bit of value 1 holds 1 before it (R154). -/
theorem State.collision_drawing_iff (s : State) (x y : Reg) (n : BitVec 4) : (s.drawing x y n).2 = true ↔
    ∃ px py, SpritePixel s x y n px py ∧ s.disp.cell px py = true := by
  rw [State.drawing, drawSprite_eq_foldl_drawCell, collision_foldl_drawCell (nodup_spriteCells _ _ _ (height_le n))]
  simp only [Bool.false_eq_true, false_or, Prod.exists, mem_spriteCells_iff]

/-- VF after DRW is the collision (R154). -/
theorem getV_flag_of_drw {x y : Reg} {n : BitVec 4} {s t : State} (h : exec (.drw x y n) s = .next t) :
    t.getV 15 = flagByte (s.drawing x y n).2 := by
  obtain rfl := Host.Outcome.next.inj h
  exact State.getV_setV_same _ flagReg _

/-- The display after DRW. -/
theorem disp_of_drw {x y : Reg} {n : BitVec 4} {s t : State} (h : exec (.drw x y n) s = .next t) :
    t.disp = (s.drawing x y n).1 := by
  obtain rfl := Host.Outcome.next.inj h
  rfl

/-- Settles O39: the cells by the two laws of the drawing, the frame by what DRW is listed to write. -/
theorem drawFlipsSpritePixels : Obligations.DrawFlipsSpritePixels := by
  intro x y n s
  have hexec := exec_drw x y n s
  exact ⟨decodeWord_encode (i := .drw x y n) rfl, _, hexec, onlyDestinationsWritten (.drw x y n) s _ hexec,
    onlyListedWritersWrite (.drw x y n) s _ hexec,
    fun px py => ⟨fun h => State.cell_drawing_of_spritePixel h, fun h => State.cell_drawing_of_not_spritePixel h⟩⟩

/-- Settles O40: VF is the collision as a byte, and a sprite of no rows is no cell. -/
theorem drawSetsCollisionFlag : Obligations.DrawSetsCollisionFlag := by
  intro x y n s
  have hexec := exec_drw x y n s
  refine ⟨_, hexec, fun hhit => ?hit, fun hmiss => ?miss, fun hn => ?empty⟩
  case hit => rw [getV_flag_of_drw hexec, (s.collision_drawing_iff x y n).mpr hhit]; rfl
  case miss =>
    have hnone : (s.drawing x y n).2 = false :=
      Bool.eq_false_iff.mpr fun h => hmiss ((s.collision_drawing_iff x y n).mp h)
    rw [getV_flag_of_drw hexec, hnone]
    rfl
  case empty =>
    have hnone : s.drawing x y n = (s.disp, false) := by rw [State.drawing, hn]; rfl
    rw [getV_flag_of_drw hexec, disp_of_drw hexec, hnone]
    exact ⟨rfl, rfl⟩

/-- Settles O41: the second draw meets the same cells, each flipped by the first. -/
theorem drawTwiceRestoresDisplay : Obligations.DrawTwiceRestoresDisplay := by
  intro x y n s t u w ht hu hw
  have hdisp : u.disp = (s.drawing x y n).1 := by rw [hu, ← disp_of_drw ht]
  have hpixel : ∀ px py, SpritePixel u x y n px py ↔ SpritePixel s x y n px py := by
    obtain rfl := Host.Outcome.next.inj ht
    subst hu
    exact fun px py => Iff.rfl
  constructor
  · refine Display.ext_cell fun px py => ?_
    rw [disp_of_drw hw]
    by_cases h : SpritePixel s x y n px py
    · rw [State.cell_drawing_of_spritePixel ((hpixel px py).mpr h), hdisp, State.cell_drawing_of_spritePixel h,
        Bool.not_not]
    · rw [State.cell_drawing_of_not_spritePixel fun hu => h ((hpixel px py).mp hu), hdisp,
        State.cell_drawing_of_not_spritePixel h]
  · have hflag : w.getV 15 = 1 ↔ (u.drawing x y n).2 = true := by
      rw [getV_flag_of_drw hw]
      cases (u.drawing x y n).2 <;> simp [flagByte]
    rw [hflag, State.collision_drawing_iff]
    refine exists_congr fun px => exists_congr fun py => ?_
    rw [hpixel, hdisp]
    refine and_congr_right fun h => ?_
    rw [State.cell_drawing_of_spritePixel h, Bool.not_eq_true']

end Sys2Proof.Machine
end

section
/-!
PROOFS. Control transfer: O13, O15, O16, O17 and O18 (R100 to R104).
-/

namespace Sys2Proof.Machine

/-- Settles O13: SYS's word decodes to it, and its meaning is the state it is given. -/
theorem sysIsNoOp : Obligations.SysIsNoOp := fun nnn s =>
  ⟨fun hcls hret => decodeWord_formatA_sys hcls hret, exec_sys nnn s⟩

/-- Settles O15: with room CALL is a push and a jump, on a full stack the fault with its own word. -/
theorem callPushesReturnAddress : Obligations.CallPushesReturnAddress := by
  intro nnn s
  refine ⟨decodeWord_encode (i := .call nnn) rfl, fun hroom => ?room, fun hfull => ?full⟩
  case room =>
    have hexec : exec (.call nnn) s = .next ((s.push s.pc).jump (zextAddr nnn)) :=
      execCall_room (Bool.eq_false_iff.mpr fun hfull => hroom (s.stackFull_iff.mp hfull))
    exact ⟨_, hexec, zextAddr_toNat nnn, rfl, onlyListedWritersWrite (.call nnn) s _ hexec⟩
  case full => exact execCall_full (s.stackFull_iff.mpr hfull)

/-- Settles O16: the two cases of the stack. -/
theorem retPopsNewestEntry : Obligations.RetPopsNewestEntry := by
  intro s
  refine ⟨rfl, fun w rest hstack => ?pop, fun hstack => execRet_nil hstack⟩
  case pop =>
    have hexec : exec .ret s = .next ((s.setStack rest).jump w) := execRet_cons hstack
    exact ⟨_, hexec, rfl, rfl, onlyListedWritersWrite .ret s _ hexec⟩

/-- Settles O17: RET pops what CALL pushed. -/
theorem callThenRetReturns : Obligations.CallThenRetReturns := by
  intro nnn s t u hcall hstack
  obtain ⟨-, rfl⟩ := (execCall_eq_next_iff nnn s t).mp hcall
  exact ⟨_, execRet_cons hstack, rfl, rfl⟩

/-- Settles O18: the sum of a 12-bit and an 8-bit number fits PC. -/
theorem indexedJumpKeepsWholeSum : Obligations.IndexedJumpKeepsWholeSum := by
  intro nnn s
  have hsum := zextAddr_add_zextByte_toNat nnn (s.getV 0)
  refine ⟨decodeWord_encode (i := .jpV0 nnn) rfl, _, exec_jpV0 nnn s, hsum, ?bound, s.onlyChanges_jump _⟩
  case bound =>
    rw [State.jump_pc, hsum]
    omega

end Sys2Proof.Machine
end

section
/-!
PROOFS. The keypad: O21, O42 and O43 (R160 to R162, R166).
-/

namespace Sys2Proof.Machine

/-- The key a skip tests is the one its register's low nibble names (R160). -/
theorem State.keyDown_lowNibble (s : State) (b : Byte) : s.keyDown (lowNibble b) = s.keys.getLsbD (b.toNat % 16) := by
  rw [State.keyDown, lowNibble_val]

/-- Settles O21: both are a skip, on the key's flag and on its negation. -/
theorem keySkips : Obligations.KeySkips := by
  intro x s
  refine ⟨decodeWord_encode (i := .skp x) rfl, ⟨_, exec_skp x s, s.onlyChanges_skipIf _, ?down⟩,
    decodeWord_encode (i := .sknp x) rfl, ⟨_, exec_sknp x s, s.onlyChanges_skipIf _, ?up⟩⟩
  case down => rw [State.skipIf_pc_toNat, State.keyDown_lowNibble]
  case up =>
    rw [State.skipIf_pc_toNat, State.keyDown_lowNibble]
    cases s.keys.getLsbD ((s.getV x).toNat % 16) <;> rfl

/-- The key found is the least that is down (R166). -/
theorem State.firstKeyDown_eq_some {s : State} {k : Reg} (hk : s.keyDown k = true)
    (hleast : ∀ j, j < k → s.keyDown j = false) : s.firstKeyDown = some k := by
  rw [State.firstKeyDown, ← Fin.find?_eq_find?_finRange, Fin.find?_eq_some_iff]
  exact ⟨hk, hleast⟩

/-- Settles O42: the two ways the search for a key ends. -/
theorem keyWaitStallsOrTakesLeastKey : Obligations.KeyWaitStallsOrTakesLeastKey := by
  intro x s
  refine ⟨decodeWord_encode (i := .ldVxK x) rfl, fun hup => ?stall, fun k hk hleast => ?press⟩
  case stall =>
    exact ⟨_, (execLdVxK_eq_next_iff x s _).mpr (.inl ⟨s.firstKeyDown_none.mpr hup, rfl⟩), rfl,
      s.onlyChanges_jump _⟩
  case press =>
    refine ⟨_, (execLdVxK_eq_next_iff x s _).mpr (.inr ⟨k, State.firstKeyDown_eq_some hk hleast, rfl⟩), ?index,
      s.onlyWritesRegs_setV x _, s.onlyChanges_setV x _⟩
    case index =>
      rw [State.getV_setV_same]
      exact ofNat8_toNat (by omega)

/-- A jump back to the address the fetch advanced from undoes the advance. -/
theorem State.advance_jump_pc (s : State) : s.advance.jump s.pc = s := rfl

/-- Settles O43: the wait puts PC back to where the fetch advanced it from. -/
theorem stalledStepChangesNothing : Obligations.StalledStepChangesNothing := by
  intro x s hpc hd hup
  have hnone : s.advance.firstKeyDown = none := s.advance.firstKeyDown_none.mpr hup
  rw [step_of_decodeWord_ok hpc hd, exec_ldVxK,
    (execLdVxK_eq_next_iff x s.advance _).mpr (.inl ⟨hnone, rfl⟩), State.pc0_advance, State.advance_jump_pc]

end Sys2Proof.Machine
end

section
/-!
PROOFS. The bitwise instructions, the random byte, and the address register: O24, O29, O31 and O32 (R123 to R125, R131,
R141, R142).
-/

namespace Sys2Proof.Machine

/-- Settles O24: each is one register write, of a byte given bit by bit. -/
theorem bitwiseOperations : Obligations.BitwiseOperations := by
  intro x y s
  refine ⟨decodeWord_encode (i := .or x y) rfl, decodeWord_encode (i := .and x y) rfl,
    decodeWord_encode (i := .xor x y) rfl,
    ⟨_, exec_or x y s, s.onlyWritesRegs_setV x _, s.onlyChanges_setV x _, fun k _ => ?or⟩,
    ⟨_, exec_and x y s, s.onlyWritesRegs_setV x _, s.onlyChanges_setV x _, fun k _ => ?and⟩,
    ⟨_, exec_xor x y s, s.onlyWritesRegs_setV x _, s.onlyChanges_setV x _, fun k _ => ?xor⟩⟩
  case or => rw [State.getV_setV_same, BitVec.getLsbD_or, Bool.or_eq_true]
  case and => rw [State.getV_setV_same, BitVec.getLsbD_and, Bool.and_eq_true]
  case xor => rw [State.getV_setV_same, BitVec.getLsbD_xor, bne_iff_ne]

/-- Settles O29: one draw and one register write, of the byte drawn masked bit by bit. -/
theorem randomByteIsMasked : Obligations.RandomByteIsMasked := by
  intro x nn s
  have hexec := exec_rnd x nn s
  refine ⟨decodeWord_encode (i := .rnd x nn) rfl, _, hexec, onlyDestinationsWritten (.rnd x nn) s _ hexec,
    onlyListedWritersWrite (.rnd x nn) s _ hexec, rfl, rfl, fun k _ => ?masked⟩
  case masked =>
    rw [State.getV_setV_same, BitVec.getLsbD_and, State.draw]
    cases nn.getLsbD k <;> simp

/-- A byte as a 16-bit value keeps its number. -/
@[simp] theorem zextByte_toNat (b : Byte) : (zextByte b).toNat = b.toNat :=
  BitVec.toNat_setWidth_of_le (by decide)

/-- Settles O31: 65536 is a multiple of 4096, so a wrap of I moves no effective address. -/
theorem addToIndexRegister : Obligations.AddToIndexRegister := by
  intro x s
  have hi : (s.i + zextByte (s.getV x)).toNat = (s.i.toNat + (s.getV x).toNat) % 65536 := by
    rw [BitVec.toNat_add, zextByte_toNat]
  refine ⟨decodeWord_encode (i := .addI x) rfl, _, exec_addI x s, hi, fun k => ?address, s.onlyChanges_setI _⟩
  case address =>
    rw [State.setI_i, ea, hi, Config.memSize]
    omega

/-- Settles O32: the greatest glyph address is FONT_BASE + 75, far below 65536. -/
theorem glyphAddress : Obligations.GlyphAddress := by
  intro x s hparams
  have hfont : s.params.fontBase + 80 ≤ 0x200 := hparams.2
  have hi : (glyphAddr s.params (lowNibble (s.getV x))).toNat = s.params.fontBase + 5 * ((s.getV x).toNat % 16) := by
    rw [glyphAddr, lowNibble_val, BitVec.toNat_ofNat]
    omega
  refine ⟨decodeWord_encode (i := .ldF x) rfl, _, exec_ldF x s, hi, ?below, s.onlyChanges_setI _⟩
  case below =>
    rw [State.setI_i, hi]
    omega

end Sys2Proof.Machine
end

section
/-!
PROOFS. The host events but LOAD and STEP: O46, O47, O50 and O51 (R38, R183 to R187, R200).
-/

namespace Sys2Proof.Machine

/-- Settles O46: by induction over the ticks, each of which takes 1. -/
theorem ticksReachZero : Obligations.TicksReachZero := by
  intro n
  induction n with
  | zero => exact fun s => ⟨rfl, rfl⟩
  | succ n ih =>
    intro s
    obtain ⟨hdt, hst⟩ := ih s.tick
    rw [State.tick_dt, tickTimer_toNat] at hdt
    rw [State.tick_st, tickTimer_toNat] at hst
    rw [List.replicate_succ, runEvents, event_tick]
    exact ⟨hdt.trans (by omega), hst.trans (by omega)⟩

/-- Settles O47: every component but RNG and the parameters is that of the fixed state `State.reset`. -/
theorem resetValues : Obligations.ResetValues := by
  intro s
  refine ⟨s.hostReset, rfl, fun r => ?register, rfl, rfl, rfl, rfl, rfl, fun k => ?key, Display.cell_clear,
    Memory.read_nil, rfl, rfl⟩
  case register => exact Vector.getElem_replicate _
  case key => exact BitVec.getLsbD_zero

/-- A change of the key vector agrees with the start state on every other component. -/
theorem State.onlyChanges_keyWrite (s : State) (keys : BitVec 16) : OnlyChanges [.keys] s (s.keyWrite keys) := by
  intro c hc
  cases c
  case keys => exact absurd List.mem_cons_self hc
  all_goals simp [Component.Agree]

/-- Settles O50: KEY_WRITE is one write of the vector. -/
theorem keyWriteSetsAllKeys : Obligations.KeyWriteSetsAllKeys := fun keys s =>
  ⟨fun _ => rfl, s.onlyChanges_keyWrite keys⟩

/-- Settles O51: the read lists the cells in the flat order. -/
theorem hostReadsSeeState : Obligations.HostReadsSeeState := by
  intro s
  refine ⟨⟨_, rfl, fun x y h => ?cell⟩, _, rfl, ?sound⟩
  case cell => rw [State.displayRead, Vector.getElem_ofFn, s.disp.flat_eq x y _ rfl]
  case sound => rw [State.soundRead, bne_iff_ne, ne_eq, ← BitVec.toNat_inj]; rfl

end Sys2Proof.Machine
end
